-- ==== Sys2Proof/Word.lean ====
section
/-! DEFINITION. The word types of the machine (spec/00_scope.md R5, R6). -/

namespace Sys2Proof

/-- One byte: a memory cell or a V register (`REG_BITS` = 8, R5). -/
abbrev Byte := BitVec 8

/-- One instruction word (`WORD_BITS` = 16, R5). -/
abbrev Word := BitVec 16

/-- The width of register I and of the address immediate `nnn` (`I_BITS` = 12, R5). -/
abbrev Addr := BitVec 12

/-- The 4-bit row count `n` of DXYN (R91). -/
abbrev Nibble := BitVec 4

/-- The index of a general register V0 .. VF (`NREGS` = 16, R21). -/
abbrev RegIdx := Fin 16

/-- A key of the hexadecimal keypad, 0 .. 15 (R33(b)). -/
abbrev KeyId := Fin 16

/-- The flag register VF, index 15 (R23). -/
abbrev VF : RegIdx := 15

end Sys2Proof
end

