-- ==== Sys2Proof/Syntax.lean ====
section
/-! DEFINITION. The instructions: one constructor per row of spec/opcode_table.json
(spec/30_encoding.md R96), in the order of the table. -/

namespace Sys2Proof

/-- An instruction. `x`, `y` are register indices, `nn`, `nnn`, `n` the unsigned immediates of
R91 and R93. -/
inductive Instr where
  | ldVxNn   (x : RegIdx) (nn : Byte)              -- 6XNN  LD Vx, nn
  | addVxNn  (x : RegIdx) (nn : Byte)              -- 7XNN  ADD Vx, nn
  | ldVxVy   (x y : RegIdx)                        -- 8XY0  LD Vx, Vy
  | orVxVy   (x y : RegIdx)                        -- 8XY1  OR Vx, Vy
  | andVxVy  (x y : RegIdx)                        -- 8XY2  AND Vx, Vy
  | xorVxVy  (x y : RegIdx)                        -- 8XY3  XOR Vx, Vy
  | addVxVy  (x y : RegIdx)                        -- 8XY4  ADD Vx, Vy
  | subVxVy  (x y : RegIdx)                        -- 8XY5  SUB Vx, Vy
  | shrVxVy  (x y : RegIdx)                        -- 8XY6  SHR Vx, Vy
  | subnVxVy (x y : RegIdx)                        -- 8XY7  SUBN Vx, Vy
  | shlVxVy  (x y : RegIdx)                        -- 8XYE  SHL Vx, Vy
  | rndVxNn  (x : RegIdx) (nn : Byte)              -- CXNN  RND Vx, nn
  | jpNnn    (nnn : Addr)                          -- 1NNN  JP nnn
  | jpV0Nnn  (nnn : Addr)                          -- BNNN  JP V0, nnn
  | callNnn  (nnn : Addr)                          -- 2NNN  CALL nnn
  | ret                                            -- 00EE  RET
  | seVxNn   (x : RegIdx) (nn : Byte)              -- 3XNN  SE Vx, nn
  | sneVxNn  (x : RegIdx) (nn : Byte)              -- 4XNN  SNE Vx, nn
  | seVxVy   (x y : RegIdx)                        -- 5XY0  SE Vx, Vy
  | sneVxVy  (x y : RegIdx)                        -- 9XY0  SNE Vx, Vy
  | ldDtVx   (x : RegIdx)                          -- FX15  LD DT, Vx
  | ldStVx   (x : RegIdx)                          -- FX18  LD ST, Vx
  | ldVxDt   (x : RegIdx)                          -- FX07  LD Vx, DT
  | ldINnn   (nnn : Addr)                          -- ANNN  LD I, nnn
  | addIVx   (x : RegIdx)                          -- FX1E  ADD I, Vx
  | ldBVx    (x : RegIdx)                          -- FX33  LD B, Vx
  | ldMemIVx (x : RegIdx)                          -- FX55  LD [I], Vx
  | ldVxMemI (x : RegIdx)                          -- FX65  LD Vx, [I]
  | ldFVx    (x : RegIdx)                          -- FX29  LD F, Vx
  | drwVxVyN (x y : RegIdx) (n : Nibble)           -- DXYN  DRW Vx, Vy, n
  | cls                                            -- 00E0  CLS
  | ldVxK    (x : RegIdx)                          -- FX0A  LD Vx, K
  | skpVx    (x : RegIdx)                          -- EX9E  SKP Vx
  | sknpVx   (x : RegIdx)                          -- EXA1  SKNP Vx
  | sysNnn   (nnn : Addr)                          -- 0NNN  SYS nnn
deriving DecidableEq, Repr

/-- The four ways an instruction moves `pc`, and the class of 0NNN, which always faults (R122). -/
inductive PcClass where
  | seq
  | skip
  | jump
  | wait
  | fault
deriving DecidableEq, Repr

/-- The pc class of an instruction, row by row as the table of R122 lists them. -/
def Instr.pcClass : Instr → PcClass
  | .ldVxNn _ _ | .addVxNn _ _ | .ldVxVy _ _ | .orVxVy _ _ | .andVxVy _ _ | .xorVxVy _ _ => .seq
  | .addVxVy _ _ | .subVxVy _ _ | .shrVxVy _ _ | .subnVxVy _ _ | .shlVxVy _ _ | .rndVxNn _ _ => .seq
  | .ldDtVx _ | .ldStVx _ | .ldVxDt _ | .ldINnn _ | .addIVx _ | .ldBVx _ | .ldMemIVx _ => .seq
  | .ldVxMemI _ | .ldFVx _ | .drwVxVyN _ _ _ | .cls => .seq
  | .seVxNn _ _ | .sneVxNn _ _ | .seVxVy _ _ | .sneVxVy _ _ | .skpVx _ | .sknpVx _ => .skip
  | .jpNnn _ | .jpV0Nnn _ | .callNnn _ | .ret => .jump
  | .ldVxK _ => .wait
  | .sysNnn _ => .fault

end Sys2Proof
end

