-- ==== Sys2Proof/WellFormed.lean ====
section
/-! DEFINITION. Well-formed instructions. Every operand field has a type of its exact width, so one
check is left: the words 0x00E0 and 0x00EE select 00E0 and 00EE before 0NNN
(spec/30_encoding.md R97, R99), so no word stands for `SYS 0x0E0` or `SYS 0x0EE`. -/

namespace Sys2Proof

/-- The address operands of 0NNN that some word carries (R99): all but 0x0E0 and 0x0EE. -/
def sysOperandOk (nnn : Addr) : Bool := nnn != 0x0E0#12 && nnn != 0x0EE#12

/-- Is this the instruction of some word? (R96, R97, R99; log 17.) -/
def Instr.wellFormed : Instr → Bool
  | .ldVxNn _ _ | .addVxNn _ _ | .ldVxVy _ _ | .orVxVy _ _ | .andVxVy _ _ | .xorVxVy _ _ => true
  | .addVxVy _ _ | .subVxVy _ _ | .shrVxVy _ _ | .subnVxVy _ _ | .shlVxVy _ _ | .rndVxNn _ _ => true
  | .jpNnn _ | .jpV0Nnn _ | .callNnn _ | .ret => true
  | .seVxNn _ _ | .sneVxNn _ _ | .seVxVy _ _ | .sneVxVy _ _ => true
  | .ldDtVx _ | .ldStVx _ | .ldVxDt _ => true
  | .ldINnn _ | .addIVx _ | .ldBVx _ | .ldMemIVx _ | .ldVxMemI _ | .ldFVx _ => true
  | .drwVxVyN _ _ _ | .cls => true
  | .ldVxK _ | .skpVx _ | .sknpVx _ => true
  | .sysNnn nnn => sysOperandOk nnn

end Sys2Proof
end

