-- ==== Sys2Proof/Decode.lean ====
section
/-! DEFINITION. The instruction decoder, the pattern compiler, the ordered dispatch table
(spec/30_encoding.md R90 to R100), and after them the encoder written from the same tables. -/

namespace Sys2Proof

/-! ### The fields of a word (R91) -/

/-- The fields the decoder extracts from every word, used or not (R91). -/
structure Fields where
  family : Nibble
  x      : RegIdx
  y      : RegIdx
  n      : Nibble
  nn     : Byte
  nnn    : Addr
deriving DecidableEq, Repr

/-- The field extraction of R91: total on all words, no failure mode. -/
def decodeFields (w : Word) : Fields where
  family := w.extractLsb' 12 4
  x      := (w.extractLsb' 8 4).toFin
  y      := (w.extractLsb' 4 4).toFin
  n      := w.extractLsb' 0 4
  nn     := w.extractLsb' 0 8
  nnn    := w.extractLsb' 0 12

/-! ### The pattern compiler (R94) -/

/-- The value of a hexadecimal digit, upper and lower case alike (R94). -/
def hexDigit (c : Char) : Option Nibble :=
  let k := c.toNat
  if 48 ≤ k ∧ k ≤ 57 then some (BitVec.ofNat 4 (k - 48))
  else if 65 ≤ k ∧ k ≤ 70 then some (BitVec.ofNat 4 (k - 55))
  else if 97 ≤ k ∧ k ≤ 102 then some (BitVec.ofNat 4 (k - 87))
  else none

/-- The wildcard letters X, Y, N, upper and lower case alike (R94, D26). -/
def isWildcard (c : Char) : Bool := c ∈ ['X', 'Y', 'N', 'x', 'y', 'n']

/-- One character of a pattern as its (match, mask) nibbles; `none` outside the alphabet of R94. -/
def compileChar (c : Char) : Option (Nibble × Nibble) :=
  match hexDigit c with
  | some d => some (d, 0xF)
  | none => if isWildcard c then some (0, 0) else none

/-- The pattern compiler: four characters, the first for bits 15:12, to `(match, mask)`; a pattern
of another length or with another character is not a pattern (R94). -/
def compilePattern : List Char → Option (Word × Word)
  | [c3, c2, c1, c0] =>
    match compileChar c3, compileChar c2, compileChar c1, compileChar c0 with
    | some p3, some p2, some p1, some p0 =>
      some (p3.1 ++ p2.1 ++ p1.1 ++ p0.1, p3.2 ++ p2.2 ++ p1.2 ++ p0.2)
    | _, _, _, _ => none
  | _ => none

/-- Matching: a definition responds to `w` exactly when `(w & mask) = match` (R95). -/
def respondsTo (mtch mask w : Word) : Bool := (w &&& mask) == mtch

/-! ### The dispatch table (R96) -/

/-- One row of the dispatch table: the columns pattern, match, mask, mnemonic of R96 (`prio` is the
row's place in the list), and the instruction its handler runs on a word's fields. -/
structure Row where
  pattern  : List Char
  mtch     : Word
  mask     : Word
  mnemonic : String
  build    : Fields → Instr

/-- Load, arithmetic, logic, shift, random: prio 0 to 11 (R96). -/
def tableLoadArith : List Row :=
  [ ⟨['6','X','N','N'], 0x6000, 0xF000, "LD Vx, nn",   fun f => .ldVxNn f.x f.nn⟩,
    ⟨['7','X','N','N'], 0x7000, 0xF000, "ADD Vx, nn",  fun f => .addVxNn f.x f.nn⟩,
    ⟨['8','X','Y','0'], 0x8000, 0xF00F, "LD Vx, Vy",   fun f => .ldVxVy f.x f.y⟩,
    ⟨['8','X','Y','1'], 0x8001, 0xF00F, "OR Vx, Vy",   fun f => .orVxVy f.x f.y⟩,
    ⟨['8','X','Y','2'], 0x8002, 0xF00F, "AND Vx, Vy",  fun f => .andVxVy f.x f.y⟩,
    ⟨['8','X','Y','3'], 0x8003, 0xF00F, "XOR Vx, Vy",  fun f => .xorVxVy f.x f.y⟩,
    ⟨['8','X','Y','4'], 0x8004, 0xF00F, "ADD Vx, Vy",  fun f => .addVxVy f.x f.y⟩,
    ⟨['8','X','Y','5'], 0x8005, 0xF00F, "SUB Vx, Vy",  fun f => .subVxVy f.x f.y⟩,
    ⟨['8','X','Y','6'], 0x8006, 0xF00F, "SHR Vx, Vy",  fun f => .shrVxVy f.x f.y⟩,
    ⟨['8','X','Y','7'], 0x8007, 0xF00F, "SUBN Vx, Vy", fun f => .subnVxVy f.x f.y⟩,
    ⟨['8','X','Y','E'], 0x800E, 0xF00F, "SHL Vx, Vy",  fun f => .shlVxVy f.x f.y⟩,
    ⟨['C','X','N','N'], 0xC000, 0xF000, "RND Vx, nn",  fun f => .rndVxNn f.x f.nn⟩ ]

/-- Control flow and conditional skips: prio 12 to 19 (R96). -/
def tableControl : List Row :=
  [ ⟨['1','N','N','N'], 0x1000, 0xF000, "JP nnn",      fun f => .jpNnn f.nnn⟩,
    ⟨['B','N','N','N'], 0xB000, 0xF000, "JP V0, nnn",  fun f => .jpV0Nnn f.nnn⟩,
    ⟨['2','N','N','N'], 0x2000, 0xF000, "CALL nnn",    fun f => .callNnn f.nnn⟩,
    ⟨['0','0','E','E'], 0x00EE, 0xFFFF, "RET",         fun _ => .ret⟩,
    ⟨['3','X','N','N'], 0x3000, 0xF000, "SE Vx, nn",   fun f => .seVxNn f.x f.nn⟩,
    ⟨['4','X','N','N'], 0x4000, 0xF000, "SNE Vx, nn",  fun f => .sneVxNn f.x f.nn⟩,
    ⟨['5','X','Y','0'], 0x5000, 0xF00F, "SE Vx, Vy",   fun f => .seVxVy f.x f.y⟩,
    ⟨['9','X','Y','0'], 0x9000, 0xF00F, "SNE Vx, Vy",  fun f => .sneVxVy f.x f.y⟩ ]

/-- Timers and address register: prio 20 to 28 (R96). -/
def tableTimersAddress : List Row :=
  [ ⟨['F','X','1','5'], 0xF015, 0xF0FF, "LD DT, Vx",   fun f => .ldDtVx f.x⟩,
    ⟨['F','X','1','8'], 0xF018, 0xF0FF, "LD ST, Vx",   fun f => .ldStVx f.x⟩,
    ⟨['F','X','0','7'], 0xF007, 0xF0FF, "LD Vx, DT",   fun f => .ldVxDt f.x⟩,
    ⟨['A','N','N','N'], 0xA000, 0xF000, "LD I, nnn",   fun f => .ldINnn f.nnn⟩,
    ⟨['F','X','1','E'], 0xF01E, 0xF0FF, "ADD I, Vx",   fun f => .addIVx f.x⟩,
    ⟨['F','X','3','3'], 0xF033, 0xF0FF, "LD B, Vx",    fun f => .ldBVx f.x⟩,
    ⟨['F','X','5','5'], 0xF055, 0xF0FF, "LD [I], Vx",  fun f => .ldMemIVx f.x⟩,
    ⟨['F','X','6','5'], 0xF065, 0xF0FF, "LD Vx, [I]",  fun f => .ldVxMemI f.x⟩,
    ⟨['F','X','2','9'], 0xF029, 0xF0FF, "LD F, Vx",    fun f => .ldFVx f.x⟩ ]

/-- Display, keypad, and 0NNN last: prio 29 to 34 (R96; 90_conflicts.md C6). -/
def tableDisplayKeypad : List Row :=
  [ ⟨['D','X','Y','N'], 0xD000, 0xF000, "DRW Vx, Vy, n", fun f => .drwVxVyN f.x f.y f.n⟩,
    ⟨['0','0','E','0'], 0x00E0, 0xFFFF, "CLS",         fun _ => .cls⟩,
    ⟨['F','X','0','A'], 0xF00A, 0xF0FF, "LD Vx, K",    fun f => .ldVxK f.x⟩,
    ⟨['E','X','9','E'], 0xE09E, 0xF0FF, "SKP Vx",      fun f => .skpVx f.x⟩,
    ⟨['E','X','A','1'], 0xE0A1, 0xF0FF, "SKNP Vx",     fun f => .sknpVx f.x⟩,
    ⟨['0','N','N','N'], 0x0000, 0xF000, "SYS nnn",     fun f => .sysNnn f.nnn⟩ ]

/-- The dispatch table in registration order, prio 0 to 34 (R96). -/
def dispatchTable : List Row :=
  tableLoadArith ++ tableControl ++ tableTimersAddress ++ tableDisplayKeypad

/-- Dispatch: the first definition that responds, first match wins (R97). -/
def dispatch (w : Word) : Option Row := dispatchTable.find? fun r => respondsTo r.mtch r.mask w

/-- The instruction a word selects, or `none` where no definition responds (R97, R98). -/
def decode (w : Word) : Option Instr := (dispatch w).map fun r => r.build (decodeFields w)

/-! ### Decoding bytes -/

/-- Why bytes are no instruction. -/
inductive DecodeReject where
  /-- Fewer than the two bytes of an instruction word (R90). -/
  | truncated
  /-- No definition responds to the word (R98). -/
  | unsupported (w : Word)
deriving DecidableEq, Repr

/-- The word of two consecutive bytes: the byte at the lower address holds bits 15:8 (R66, R90). -/
def joinWord (hi lo : Byte) : Word := hi ++ lo

/-- Decode the instruction at the front of a byte list and give the bytes after it; every
instruction is one 16-bit word, most significant byte first (R90). -/
def decodeBytes : List Byte → Except DecodeReject (Instr × List Byte)
  | hi :: lo :: rest =>
    match decode (joinWord hi lo) with
    | some i => .ok (i, rest)
    | none => .error (.unsupported (joinWord hi lo))
  | [_] => .error .truncated
  | [] => .error .truncated

/-- The two bytes of a table word `w` of `nbits` bits as memory stores them; bits of the instruction
above `nbits` are 0 (R66, R90). -/
def tableWordBytes (nbits w : Nat) : List Byte :=
  let v : Word := BitVec.ofNat 16 (w % 2 ^ nbits)
  [v.extractLsb' 8 8, v.extractLsb' 0 8]

/-- The instruction the decoder reads from a table word, bits numbered as spec/opcode_table.json
numbers them. -/
def decodeTableWord (nbits w : Nat) : Option Instr :=
  match decodeBytes (tableWordBytes nbits w) with
  | .ok (i, _) => some i
  | .error _ => none

/-! ### The encoder, by the formats of R92 -/

/-- A register index as its 4-bit field. -/
def regField (x : RegIdx) : Nibble := BitVec.ofFin x

/-- Format NNN: literal family, then `nnn` (R92). -/
def encodeNNN (family : Nibble) (nnn : Addr) : Word := family ++ nnn

/-- Format XNN: literal family, `x`, `nn` (R92). -/
def encodeXNN (family : Nibble) (x : RegIdx) (nn : Byte) : Word := family ++ regField x ++ nn

/-- Format XYN: literal family, `x`, `y`, `n` (R92). -/
def encodeXYN (family : Nibble) (x y : RegIdx) (n : Nibble) : Word :=
  family ++ regField x ++ regField y ++ n

/-- Format XY: literal family, `x`, `y`, literal last nibble (R92). -/
def encodeXY (family : Nibble) (x y : RegIdx) (last : Nibble) : Word :=
  family ++ regField x ++ regField y ++ last

/-- Format X: literal family, `x`, literal low byte (R92). -/
def encodeX (family : Nibble) (x : RegIdx) (low : Byte) : Word := family ++ regField x ++ low

/-- The word of an instruction (R92, R96). -/
def encode : Instr → Word
  | .ldVxNn x nn    => encodeXNN 0x6 x nn
  | .addVxNn x nn   => encodeXNN 0x7 x nn
  | .ldVxVy x y     => encodeXY 0x8 x y 0x0
  | .orVxVy x y     => encodeXY 0x8 x y 0x1
  | .andVxVy x y    => encodeXY 0x8 x y 0x2
  | .xorVxVy x y    => encodeXY 0x8 x y 0x3
  | .addVxVy x y    => encodeXY 0x8 x y 0x4
  | .subVxVy x y    => encodeXY 0x8 x y 0x5
  | .shrVxVy x y    => encodeXY 0x8 x y 0x6
  | .subnVxVy x y   => encodeXY 0x8 x y 0x7
  | .shlVxVy x y    => encodeXY 0x8 x y 0xE
  | .rndVxNn x nn   => encodeXNN 0xC x nn
  | .jpNnn nnn      => encodeNNN 0x1 nnn
  | .jpV0Nnn nnn    => encodeNNN 0xB nnn
  | .callNnn nnn    => encodeNNN 0x2 nnn
  | .ret            => 0x00EE
  | .seVxNn x nn    => encodeXNN 0x3 x nn
  | .sneVxNn x nn   => encodeXNN 0x4 x nn
  | .seVxVy x y     => encodeXY 0x5 x y 0x0
  | .sneVxVy x y    => encodeXY 0x9 x y 0x0
  | .ldDtVx x       => encodeX 0xF x 0x15
  | .ldStVx x       => encodeX 0xF x 0x18
  | .ldVxDt x       => encodeX 0xF x 0x07
  | .ldINnn nnn     => encodeNNN 0xA nnn
  | .addIVx x       => encodeX 0xF x 0x1E
  | .ldBVx x        => encodeX 0xF x 0x33
  | .ldMemIVx x     => encodeX 0xF x 0x55
  | .ldVxMemI x     => encodeX 0xF x 0x65
  | .ldFVx x        => encodeX 0xF x 0x29
  | .drwVxVyN x y n => encodeXYN 0xD x y n
  | .cls            => 0x00E0
  | .ldVxK x        => encodeX 0xF x 0x0A
  | .skpVx x        => encodeX 0xE x 0x9E
  | .sknpVx x       => encodeX 0xE x 0xA1
  | .sysNnn nnn     => encodeNNN 0x0 nnn

/-- The bytes of an instruction as memory stores them: bits 15:8 first (R66, R90). -/
def encodeBytes (i : Instr) : List Byte :=
  [(encode i).extractLsb' 8 8, (encode i).extractLsb' 0 8]

end Sys2Proof
end

