-- ==== Sys2Proof/Config.lean ====
section
/-! DEFINITION. The implementation parameters of spec/00_scope.md R5, and the free draws of the
environment (spec/10_state.md R33). -/

namespace Sys2Proof

/-- `MEM_SIZE`: bytes of memory, addresses 0x000 .. 0xFFF (R5, R60). -/
def Config.memSize : Nat := 4096

/-- `FONT_BASE`: first byte of the font table (R5, R62). -/
def Config.fontBase : Nat := 0

/-- `FONT_STRIDE`: bytes per glyph (R5, R63). -/
def Config.fontStride : Nat := 5

/-- `FONT_GLYPHS`: glyphs 0 .. F (R5, R63). -/
def Config.fontGlyphs : Nat := 16

/-- `PROG_BASE`: load address of the ROM and reset value of `pc` (R5, R62). -/
def Config.progBase : Nat := 0x200

/-- `ROM_MAX` = 4096 − 0x200: the longest ROM a reset accepts (R5, R64). -/
def Config.romMax : Nat := 3584

/-- `PC_BITS`: the width of `pc`, of the stack entries and of `fault.pc` (R5, R25, R27; log 10). -/
abbrev Config.pcBits : Nat := 16

/-- A value of the program counter (R25). -/
abbrev Pc := BitVec Config.pcBits

/-- `STACK_DEPTH`: entries of the call stack (R5, R27; log 6). -/
def Config.stackDepth : Nat := 16

/-- `FILL`: what every byte that is neither font nor ROM holds after reset (R5, R65; log 5). -/
def Config.fill : Byte := 0x00

/-- `TIMER_UNIT` in seconds. No rule depends on the value: the time base already counts in this
unit (R180, R5; log 8). -/
def Config.timerUnitSeconds : Nat := 1

/-- The tie rules R181 and decision D2 name for `round`. -/
inductive RoundTies where
  | toEven
  | awayFromZero
deriving DecidableEq, Repr

/-- `ROUND_TIES` (R5, R181; log 7). -/
def Config.roundTies : RoundTies := .toEven

/-- The first eight glyphs of `FONT` (R63). -/
def Config.fontLow : List Byte :=
  [0xF0, 0x90, 0x90, 0x90, 0xF0] ++ [0x20, 0x60, 0x20, 0x20, 0x70] ++
  [0xF0, 0x10, 0xF0, 0x80, 0xF0] ++ [0xF0, 0x10, 0xF0, 0x10, 0xF0] ++
  [0x90, 0x90, 0xF0, 0x10, 0x10] ++ [0xF0, 0x80, 0xF0, 0x10, 0xF0] ++
  [0xF0, 0x80, 0xF0, 0x90, 0xF0] ++ [0xF0, 0x10, 0x20, 0x40, 0x40]

/-- The last eight glyphs of `FONT` (R63). -/
def Config.fontHigh : List Byte :=
  [0xF0, 0x90, 0xF0, 0x90, 0xF0] ++ [0xF0, 0x90, 0xF0, 0x10, 0xF0] ++
  [0xF0, 0x90, 0xF0, 0x90, 0x90] ++ [0xE0, 0x90, 0xE0, 0x90, 0xE0] ++
  [0xF0, 0x80, 0x80, 0x80, 0xF0] ++ [0xE0, 0x90, 0x90, 0x90, 0xE0] ++
  [0xF0, 0x80, 0xF0, 0x80, 0xF0] ++ [0xF0, 0x80, 0xF0, 0x80, 0x80]

/-- `FONT`: the 80 bytes of R63, which the spec takes from general knowledge (D5; log 4). A claim
that depends on the shape of a glyph names this constant. -/
def Config.font : List Byte := Config.fontLow ++ Config.fontHigh

/-- One sample of the step's inputs as the environment draws it (R33): how far the time base has
advanced since the sample before (an advance below 0 counts as 0, so that `now` never decreases,
R180), the key the keypad reports, and the random byte. -/
structure Draw where
  elapsed : Rat
  key     : Option KeyId
  rnd     : Byte
deriving DecidableEq, Repr, Inhabited

/-- The free draws of the environment: the `k`-th sample of the inputs, where nothing has fixed it.
It has no body, so nothing constrains it (R33, U12 to U14; DESIGN CHOICE, log 1). -/
opaque Config.freeDraw : Nat → Draw

end Sys2Proof
end

