-- ==== Sys2Proof/Machine/State.lean ====
section
/-! DEFINITION. The architectural state (spec/10_state.md R20), the input latches of the model, the
reasons a step can stop, and the state after reset (R37, R290). -/

namespace Sys2Proof.Machine

/-- Memory as the cells that differ from the reset contents, addresses rising (R30, R60; log 21). -/
abbrev Memory := List Host.Cell

/-- The display buffer: `disp[c][r]`, column 0 .. 63, row 0 .. 31, `true` is on (R31, R210). -/
abbrev Disp := Vector (Vector Bool 32) 64

/-- The causes a fault record holds (R260); `Cause.code` gives the numbers (log 20). -/
inductive Cause where
  /-- Code 0: no fault has occurred. -/
  | none
  /-- Code 1: a word that matches no definition, or 0NNN (R261). -/
  | unsupportedInstruction
  /-- Code 2: a byte address above 0xFFF (R262). -/
  | addressOutOfRange
  /-- Code 3: a fetch at an odd `pc` (R263). -/
  | misalignedFetch
  /-- Code 4: 2NNN on a full stack (R264). -/
  | stackOverflow
  /-- Code 5: 00EE on an empty stack (R265). -/
  | stackUnderflow
deriving DecidableEq, Repr

/-- The fault record (R32). -/
structure FaultRecord where
  halted : Bool
  cause  : Cause
  pc     : Pc
  word   : Word
deriving DecidableEq, Repr

/-- The latest step's samples of the input ports (R33). They are no state of the spec: the step
latches them at its start, and the handlers read them here (log 1, log 19). -/
structure Port where
  now : Rat
  key : Option KeyId
  rnd : Byte
deriving DecidableEq, Repr

/-- The state: the nine elements of R20, then the model's own three fields that carry the free
inputs of R33 (`port`, `script`, `drawn`; log 1). The newest stack entry stands first (log 11). -/
@[ext]
structure State where
  V        : Vector Byte 16
  I        : Addr
  pc       : Pc
  stack    : List Pc
  dtTarget : Rat
  stTarget : Rat
  mem      : Memory
  disp     : Disp
  fault    : FaultRecord
  port     : Port
  script   : List Draw
  drawn    : Nat
deriving DecidableEq, Repr

/-- The reasons the outcome of a step is a fault. -/
inductive Fault where
  /-- Raised by `step` alone, when the machine was halted before the step by the fault of this cause:
  the spec has such a step change nothing and advises a model to give it no successor (R125, R268).
  Safe: the model stops where the hardware stays as it is (log 3). -/
  | halted (cause : Cause)
deriving DecidableEq, Repr

/-- The reasons the model gives no meaning. -/
inductive Refusal where
  /-- Raised by `exec` for an instruction that has no meaning yet; no arm does so. Safe. -/
  | notModelled (mnemonic : String)
  /-- Raised by `assertReset` alone: a ROM longer than `ROM_MAX`, which a model refuses (R64, R290).
  Safe. -/
  | romTooLong
  /-- Raised by `assertReset` alone: a reset-time value that is none of the time base, below 0 or below
  the latest sample (R33, R180). Safe (log 24). -/
  | timeBeforeSample
deriving DecidableEq, Repr

/-- No fault recorded: the record after reset (R37). -/
def FaultRecord.clear : FaultRecord := { halted := false, cause := .none, pc := 0, word := 0 }

/-- Every pixel off (R37, R212). -/
def Disp.clear : Disp := Vector.replicate 64 (Vector.replicate 32 false)

/-- The state right after reset (R37, R290) with the ROM of length 0 (log 9) and reset-time `now` 0
(log 2). The input latches hold values the first step samples anew (log 2). -/
def State.reset : State where
  V        := Vector.replicate 16 0
  I        := 0
  pc       := BitVec.ofNat Config.pcBits Config.progBase
  stack    := []
  dtTarget := 0
  stTarget := 0
  mem      := []
  disp     := Disp.clear
  fault    := FaultRecord.clear
  port     := { now := 0, key := none, rnd := 0 }
  script   := []
  drawn    := 0

end Sys2Proof.Machine
end

