-- ==== Sys2Proof/Machine/Memory.lean ====
section
/-! DEFINITION. The memory array and its access primitives (spec/20_memory.md R60 to R70). -/

namespace Sys2Proof.Machine

/-- What an address no cell lists reads as: the reset contents before a ROM is placed, that is the
font at 0x000 .. 0x04F and `FILL` elsewhere (R62, R63, R65; logs 4 and 5). -/
def Memory.unlisted (a : Nat) : Byte :=
  if Config.fontBase ≤ a ∧ a < Config.fontBase + Config.fontGlyphs * Config.fontStride then
    Config.font.getD (a - Config.fontBase) Config.fill
  else Config.fill

/-- `mem[a]` (R61). -/
def Memory.read (m : Memory) (a : Nat) : Byte :=
  match m with
  | [] => Memory.unlisted a
  | c :: rest => if c.1 = a then c.2 else Memory.read rest a

/-- List the cell `(a, b)` in its place, in the stead of an earlier cell of that address. -/
def Memory.insert (m : Memory) (a : Nat) (b : Byte) : Memory :=
  match m with
  | [] => [(a, b)]
  | c :: rest =>
    if a < c.1 then (a, b) :: c :: rest
    else if a = c.1 then (a, b) :: rest
    else c :: Memory.insert rest a b

/-- `mem[a] <- b` (R61), keeping the canonical form: a byte equal to what an unlisted address reads
as is not listed. -/
def Memory.write (m : Memory) (a : Nat) (b : Byte) : Memory :=
  if b = Memory.unlisted a then m.filter fun c => c.1 != a else Memory.insert m a b

/-- The canonical form: addresses strictly rising, inside the 4096 bytes, no entry equal to what an
unlisted address reads as (R60; log 21). -/
def Memory.wf (m : Memory) : Bool :=
  decide (m.Pairwise fun c d => c.1 < d.1) &&
    m.all fun c => decide (c.1 < Config.memSize) && c.2 != Memory.unlisted c.1

/-- The `n` bytes at `a`, `a + 1`, …, lowest address first (R7, R61). -/
def Memory.readBytes (m : Memory) (a : Nat) : Nat → List Byte
  | 0 => []
  | n + 1 => Memory.read m a :: Memory.readBytes m (a + 1) n

/-- Store bytes at `a`, `a + 1`, …, in that order (R7, R61). -/
def Memory.writeBytes (m : Memory) (a : Nat) : List Byte → Memory
  | [] => m
  | b :: bs => Memory.writeBytes (Memory.write m a b) (a + 1) bs

/-- Does every address of the `n` bytes at `a` exist? Nothing wraps (R61, D6). -/
def inSpace (a n : Nat) : Bool := n == 0 || decide (a + n ≤ Config.memSize)

/-- `MemRead(a, n)`: `none` where an address exceeds 0xFFF, which raises AddressOutOfRange (R61). -/
def State.memRead (s : State) (a n : Nat) : Option (List Byte) :=
  if inSpace a n then some (s.mem.readBytes a n) else none

/-- `MemWrite(a, n, bytes)`: the whole range is checked before anything is written; `none` where an
address exceeds 0xFFF (R61, D15). -/
def State.memWrite (s : State) (a : Nat) (bytes : List Byte) : Option State :=
  if inSpace a bytes.length then some { s with mem := s.mem.writeBytes a bytes } else none

end Sys2Proof.Machine
end

