-- ==== Sys2Proof/Machine/Ops.lean ====
section
/-! DEFINITION. The named operations over registers, `pc`, call stack, timers and inputs; taking a
fault (spec/60_exceptions.md R268); reset (spec/70_reset_and_hazards.md R290), the one way back. -/

namespace Sys2Proof.Machine

/-! ### Registers (R21 to R24) -/

/-- `V[r]` (R21). -/
def State.getV (s : State) (r : RegIdx) : Byte := s.V[r]

/-- `V[r] <- b` (R22): the stored value is one byte. -/
def State.setV (s : State) (r : RegIdx) (b : Byte) : State := { s with V := s.V.set r b }

/-- `I <- a` (R24): the stored value is 12 bits. -/
def State.setI (s : State) (a : Addr) : State := { s with I := a }

/-! ### Program counter (R25, R122) -/

/-- `pc <- a` (R25). -/
def State.setPc (s : State) (a : Pc) : State := { s with pc := a }

/-- Class SEQ: `pc <- pc + 2` (R122). -/
def State.next2 (s : State) : State := s.setPc (s.pc + 2)

/-- Class SKIP: `pc <- pc + 4` if the condition holds, else `pc <- pc + 2` (R122, R123). -/
def State.skipIf (s : State) (cond : Bool) : State := s.setPc (s.pc + if cond then 4 else 2)

/-! ### Call stack (R27) -/

/-- `push(v)`: `none` where the stack already holds `STACK_DEPTH` entries (R27, R264). -/
def State.push (s : State) (v : Pc) : Option State :=
  if Config.stackDepth ≤ s.stack.length then none else some { s with stack := v :: s.stack }

/-- `pop()`: the newest entry and the state without it; `none` where the stack is empty (R27, R265). -/
def State.pop (s : State) : Option (Pc × State) :=
  match s.stack with
  | [] => none
  | v :: rest => some (v, { s with stack := rest })

/-! ### Timers (R180 to R182) -/

/-- `round(d)`: the integer nearest `d`, an exact half by the tie rule (R181, D2). -/
def roundNearest (ties : RoundTies) (d : Rat) : Int :=
  let low := d.floor
  let part := d - low
  if part < 1 / 2 then low
  else if 1 / 2 < part then low + 1
  else match ties with
    | .toEven => if low % 2 = 0 then low else low + 1
    | .awayFromZero => if d < 0 then low else low + 1

/-- `TimerRead(T) = max(0, round(T.target − now))` (R181). -/
def timerRead (target now : Rat) : Int := max 0 (roundNearest Config.roundTies (target - now))

/-- `TimerWrite(T, v)`: the new target `now + v` (R182). -/
def timerTarget (now : Rat) (v : Byte) : Rat := now + (v.toNat : Rat)

/-- `TimerRead(DT)` at the latest sample of `now` (R28). -/
def State.delayTimer (s : State) : Int := timerRead s.dtTarget s.port.now

/-- `TimerRead(ST)` at the latest sample of `now`, which a host may read (R29, R38, R184). -/
def State.soundTimer (s : State) : Int := timerRead s.stTarget s.port.now

/-- `TimerWrite(DT, v)` (R182). -/
def State.setDelay (s : State) (v : Byte) : State := { s with dtTarget := timerTarget s.port.now v }

/-- `TimerWrite(ST, v)` (R182). -/
def State.setSound (s : State) (v : Byte) : State := { s with stTarget := timerTarget s.port.now v }

/-! ### Inputs (R33) -/

/-- The draw the coming step samples: the first of the script, or a free draw (R33; log 1). -/
def State.nextDraw (s : State) : Draw :=
  match s.script with
  | [] => Config.freeDraw s.drawn
  | d :: _ => d

/-- How far the time base advances at a draw: never backwards (R180); that an elapsed time below 0
counts as 0 is the model's choice (log 1). -/
def advanceOf (d : Draw) : Rat := if 0 ≤ d.elapsed then d.elapsed else 0

/-- Sample the inputs, once, at the start of a step (R33, R120; log 19). -/
def State.sample (s : State) : State :=
  { s with
    port := { now := s.port.now + advanceOf s.nextDraw, key := s.nextDraw.key, rnd := s.nextDraw.rnd }
    script := s.script.tail
    drawn := s.drawn + 1 }

/-! ### Taking a fault (R260, R268) -/

/-- The code of a cause (R260). -/
def Cause.code : Cause → BitVec 3
  | .none => 0
  | .unsupportedInstruction => 1
  | .addressOutOfRange => 2
  | .misalignedFetch => 3
  | .stackOverflow => 4
  | .stackUnderflow => 5

/-- `raise`: record the fault and halt; nothing else changes, `pc` still addresses the faulting
instruction (R268; log 3). `w` is the fetched word, or 0 where the fetch did not complete. -/
def State.raise (s : State) (c : Cause) (w : Word) : State :=
  { s with fault := { halted := true, cause := c, pc := s.pc, word := w } }

/-- A handler's own fault: the word recorded is the instruction's (R260, R268; log 15). -/
def State.raiseBy (s : State) (c : Cause) (i : Instr) : State := s.raise c (encode i)

/-! ### Reset (R290), the only exit from the halted state (R269) -/

/-- Memory after a reset with `rom`: byte k of the ROM at 0x200 + k, font and fill around it (R62 to
R65). -/
def Memory.load (rom : List Byte) : Memory := Memory.writeBytes [] Config.progBase rom

/-- Is `now` a value the time base can have at a reset from this state? It is non-negative (R33) and not
below the latest sample, since the samples that follow are not below either (R180; log 24). -/
def State.timeAdmits (s : State) (now : Rat) : Bool := decide (0 ≤ now) && decide (s.port.now ≤ now)

/-- Every element at its reset value, for the ROM `rom` and the time-base value `now` (R37, R290).
What belongs to the environment, the coming draws, is not reset (log 1). -/
def State.resetWith (s : State) (rom : List Byte) (now : Rat) : State :=
  { State.reset with
    mem := Memory.load rom
    dtTarget := now
    stTarget := now
    port := { State.reset.port with now := now }
    script := s.script
    drawn := s.drawn }

/-- Asserting `reset` (R290): a ROM longer than `ROM_MAX` is refused (R64, D20), and a `now` that is no
value of the time base too; refusing it is the model's choice (R33, R180; log 24). -/
def State.assertReset (s : State) (rom : List Byte) (now : Rat) :
    Host.Outcome State Fault Refusal :=
  if Config.romMax < rom.length then .refused .romTooLong
  else if s.timeAdmits now then .next (s.resetWith rom now)
  else .refused .timeBeforeSample

/-! ### Placing an instruction where the next step fetches it -/

/-- Store the bytes of a table word at `pc` (log 9, log 16). -/
def State.storeAtPc (s : State) (nbits w : Nat) : State :=
  { s with mem := s.mem.writeBytes s.pc.toNat (tableWordBytes nbits w) }

end Sys2Proof.Machine
end

