-- ==== Sys2Proof/Machine/Operands.lean ====
section
/-! DEFINITION. The operand forms: register, immediate, jump target, memory at I
(spec/30_encoding.md R93, spec/45_address_register.md). -/

namespace Sys2Proof.Machine

/-- `nnn` as a jump target: absolute, zero-extended, unchecked (R93, R160). -/
def targetOf (nnn : Addr) : Pc := nnn.setWidth Config.pcBits

/-- The jump target `nnn + V[0]`, not reduced modulo 4096 (R161). -/
def State.targetPlusV0 (s : State) (nnn : Addr) : Pc := targetOf nnn + (s.getV 0).setWidth Config.pcBits

/-- `I + k`, the address of the `k`-th byte an instruction accesses, a number that may exceed 0xFFF
(R61, R77). -/
def State.addrAtI (s : State) (k : Nat) : Nat := s.I.toNat + k

/-- `I + V[x]` modulo 4096 (R191). -/
def State.iPlus (s : State) (x : RegIdx) : Addr := s.I + (s.getV x).setWidth 12

/-- The address of the font glyph for the low nibble of a byte (R195). -/
def glyphAddr (v : Byte) : Addr :=
  BitVec.ofNat 12 (Config.fontBase + (v &&& 0x0F).toNat * Config.fontStride)

/-- The three decimal digits of a byte: hundreds, tens, ones (R192). -/
def decimalDigits (v : Byte) : List Byte :=
  [BitVec.ofNat 8 (v.toNat / 100), BitVec.ofNat 8 (v.toNat / 10 % 10), BitVec.ofNat 8 (v.toNat % 10)]

/-- `V[0], …, V[x]`, both ends included (R193). -/
def State.regsUpTo (s : State) (x : RegIdx) : List Byte := s.V.toList.take (x.val + 1)

/-- `V[k] <- b` for the bytes of a list, from register `k` upwards (R194). -/
def loadRegs (V : Vector Byte 16) (k : Nat) : List Byte → Vector Byte 16
  | [] => V
  | b :: bs => loadRegs (V.setIfInBounds k b) (k + 1) bs

/-- Load registers V0, V1, … from a list of bytes (R194). -/
def State.setRegs (s : State) (bytes : List Byte) : State := { s with V := loadRegs s.V 0 bytes }

/-- Is the sampled key the key whose number is the whole byte `V[x]`? (R232, R233.) -/
def State.keyIs (s : State) (x : RegIdx) : Bool :=
  match s.port.key with
  | some k => k.val == (s.getV x).toNat
  | none => false

end Sys2Proof.Machine
end

