-- ==== Sys2Proof/Machine/AddressRegister.lean ====
section
/-! DEFINITION. Address-register, BCD and block load/store instructions
(spec/45_address_register.md R190 to R195). -/

namespace Sys2Proof.Machine

/-- ANNN, `LD I, nnn` (R190). -/
def execLdINnn (nnn : Addr) (s : State) : Host.Outcome State Fault Refusal :=
  .next (s.setI nnn).next2

/-- FX1E, `ADD I, Vx`: modulo 4096, no flag (R191). -/
def execAddIVx (x : RegIdx) (s : State) : Host.Outcome State Fault Refusal :=
  .next (s.setI (s.iPlus x)).next2

/-- FX33, `LD B, Vx`: three digits at I, I+1, I+2; takes AddressOutOfRange when I + 2 > 0xFFF
(R192). -/
def execLdBVx (x : RegIdx) (s : State) : Host.Outcome State Fault Refusal :=
  match s.memWrite (s.addrAtI 0) (decimalDigits (s.getV x)) with
  | some t => .next t.next2
  | none => .next (s.raiseBy .addressOutOfRange (.ldBVx x))

/-- FX55, `LD [I], Vx`: V0 .. VX at I .. I+X, I unchanged; takes AddressOutOfRange when
I + X > 0xFFF (R193). -/
def execLdMemIVx (x : RegIdx) (s : State) : Host.Outcome State Fault Refusal :=
  match s.memWrite (s.addrAtI 0) (s.regsUpTo x) with
  | some t => .next t.next2
  | none => .next (s.raiseBy .addressOutOfRange (.ldMemIVx x))

/-- FX65, `LD Vx, [I]`: V0 .. VX from I .. I+X, I unchanged; takes AddressOutOfRange when
I + X > 0xFFF (R194). -/
def execLdVxMemI (x : RegIdx) (s : State) : Host.Outcome State Fault Refusal :=
  match s.memRead (s.addrAtI 0) (x.val + 1) with
  | some bytes => .next (s.setRegs bytes).next2
  | none => .next (s.raiseBy .addressOutOfRange (.ldVxMemI x))

/-- FX29, `LD F, Vx` (R195). -/
def execLdFVx (x : RegIdx) (s : State) : Host.Outcome State Fault Refusal :=
  .next (s.setI (glyphAddr (s.getV x))).next2

end Sys2Proof.Machine
end

