-- ==== Sys2Proof/Machine/ControlFlow.lean ====
section
/-! DEFINITION. Control-flow instructions (spec/42_control_flow.md R160 to R164). -/

namespace Sys2Proof.Machine

/-- 1NNN, `JP nnn` (R160). -/
def execJpNnn (nnn : Addr) (s : State) : Host.Outcome State Fault Refusal :=
  .next (s.setPc (targetOf nnn))

/-- BNNN, `JP V0, nnn` (R161). -/
def execJpV0Nnn (nnn : Addr) (s : State) : Host.Outcome State Fault Refusal :=
  .next (s.setPc (s.targetPlusV0 nnn))

/-- 2NNN, `CALL nnn`: pushes the address of the call itself; takes StackOverflow on a full stack
(R162, R264). -/
def execCallNnn (nnn : Addr) (s : State) : Host.Outcome State Fault Refusal :=
  match s.push s.pc with
  | some t => .next (t.setPc (targetOf nnn))
  | none => .next (s.raiseBy .stackOverflow (.callNnn nnn))

/-- 00EE, `RET`: `pc <- pop() + 2`; takes StackUnderflow on an empty stack (R163, R265). -/
def execRet (s : State) : Host.Outcome State Fault Refusal :=
  match s.pop with
  | some (v, t) => .next (t.setPc (v + 2))
  | none => .next (s.raiseBy .stackUnderflow .ret)

/-- 0NNN, `SYS nnn`: takes UnsupportedInstruction, always (R164, R261). -/
def execSysNnn (nnn : Addr) (s : State) : Host.Outcome State Fault Refusal :=
  .next (s.raiseBy .unsupportedInstruction (.sysNnn nnn))

end Sys2Proof.Machine
end

