-- ==== Sys2Proof/Machine/Blitter.lean ====
section
/-! DEFINITION. The display buffer's two operations: the XOR blit with toroidal wraparound and
collision, and the clear (spec/46_display.md R210 to R212). -/

namespace Sys2Proof.Machine

/-- `disp[c][r]` (R210). -/
def Disp.pixel (d : Disp) (c : Fin 64) (r : Fin 32) : Bool := d[c][r]

/-- `disp[c][r] <- disp[c][r] ^ 1` (R211). -/
def Disp.toggle (d : Disp) (c : Fin 64) (r : Fin 32) : Disp := d.set c (d[c].set r (!d[c][r]))

/-- The display column of sprite column `i` for the origin column `x`: `(x + i) mod 64` (R211). -/
def blitColumn (x i : Nat) : Fin 64 := Fin.ofNat 64 (x + i)

/-- The display row of sprite row `j` for the origin row `y`: `(y + j) mod 32` (R211). -/
def blitRow (y j : Nat) : Fin 32 := Fin.ofNat 32 (y + j)

/-- Sprite column `i` of a row byte is bit `7 − i` (R211, D13; log 13). -/
def spriteBit (row : Byte) (i : Nat) : Bool := row.getLsbD (7 - i)

/-- One sprite bit: a 1 toggles its pixel and collides if the pixel was on; a 0 does nothing (R211). -/
def blitBit (c : Fin 64) (r : Fin 32) (bit : Bool) (acc : Disp × Bool) : Disp × Bool :=
  if bit then (acc.1.toggle c r, acc.2 || acc.1.pixel c r) else acc

/-- The eight bits of one sprite row, `i` = 0 .. 7, onto display row `r` (R211). -/
def blitRowBits (x : Nat) (r : Fin 32) (row : Byte) (acc : Disp × Bool) : Disp × Bool :=
  [0, 1, 2, 3, 4, 5, 6, 7].foldl (fun a i => blitBit (blitColumn x i) r (spriteBit row i) a) acc

/-- The rows of a sprite from sprite row `j` on (R211). -/
def blitRows (x y j : Nat) (rows : List Byte) (acc : Disp × Bool) : Disp × Bool :=
  match rows with
  | [] => acc
  | row :: rest => blitRows x y (j + 1) rest (blitRowBits x (blitRow y j) row acc)

/-- `write_sprite(x, y, rows)`: the new buffer and the collision flag (R211). -/
def writeSprite (x y : Nat) (rows : List Byte) (d : Disp) : Disp × Bool :=
  blitRows x y 0 rows (d, false)

end Sys2Proof.Machine
end

