-- ==== Sys2Proof/Machine/Flags.lean ====
section
/-! DEFINITION. The values written to the flag register VF and the order of the two writes
(spec/10_state.md R23, spec/41_load_arith.md R141). -/

namespace Sys2Proof.Machine

/-- A flag as the byte VF receives: 0 or 1 (R23). -/
def flagByte (c : Bool) : Byte := if c then 1 else 0

/-- Carry of an addition: the 9-bit sum exceeds 255 (R148). -/
def carryFlag (a b : Byte) : Byte := flagByte (decide (255 < a.toNat + b.toNat))

/-- The subtraction flag: minuend strictly greater than subtrahend (R149, R151; C2). -/
def greaterFlag (minuend subtrahend : Byte) : Byte :=
  flagByte (decide (subtrahend.toNat < minuend.toNat))

/-- Bit 0, the bit a right shift loses (R150). -/
def lowBitFlag (b : Byte) : Byte := flagByte (b.getLsbD 0)

/-- Bit 7, the bit a left shift loses (R152). -/
def highBitFlag (b : Byte) : Byte := flagByte (b.getLsbD 7)

/-- Result first, flag second: with X = F the register VF ends holding the flag (R141(a)). -/
def State.setResultThenFlag (s : State) (x : RegIdx) (result flag : Byte) : State :=
  (s.setV x result).setV VF flag

/-- Flag first, result second: with X = F the register VF ends holding the result (R141(b)). -/
def State.setFlagThenResult (s : State) (x : RegIdx) (result flag : Byte) : State :=
  (s.setV VF flag).setV x result

end Sys2Proof.Machine
end

