-- ==== Sys2Proof/Machine/Display.lean ====
section
/-! DEFINITION. Display instructions (spec/46_display.md R213, R214). -/

namespace Sys2Proof.Machine

/-- Blit onto the machine's display and write the collision to VF, after the blit (R213, R141(c)). -/
def State.draw (s : State) (cx cy : Nat) (rows : List Byte) : State :=
  ({ s with disp := (writeSprite cx cy rows s.disp).1 } : State).setV VF
    (flagByte (writeSprite cx cy rows s.disp).2)

/-- DXYN, `DRW Vx, Vy, n`: takes AddressOutOfRange when n > 0 and I + n − 1 > 0xFFF (R213). -/
def execDrwVxVyN (x y : RegIdx) (n : Nibble) (s : State) : Host.Outcome State Fault Refusal :=
  match s.memRead (s.addrAtI 0) n.toNat with
  | some rows => .next (s.draw (s.getV x).toNat (s.getV y).toNat rows).next2
  | none => .next (s.raiseBy .addressOutOfRange (.drwVxVyN x y n))

/-- 00E0, `CLS` (R214, R212). -/
def execCls (s : State) : Host.Outcome State Fault Refusal :=
  .next ({ s with disp := Disp.clear } : State).next2

end Sys2Proof.Machine
end

