-- ==== Sys2Proof/Machine/Keypad.lean ====
section
/-! DEFINITION. Keypad instructions (spec/47_keypad.md R231 to R233). -/

namespace Sys2Proof.Machine

/-- FX0A, `LD Vx, K`: with no key the step completes and changes nothing, so the next step tries
again (R231). -/
def execLdVxK (x : RegIdx) (s : State) : Host.Outcome State Fault Refusal :=
  .next (match s.port.key with
    | some k => (s.setV x (BitVec.ofNat 8 k.val)).next2
    | none => s)

/-- EX9E, `SKP Vx` (R232). -/
def execSkpVx (x : RegIdx) (s : State) : Host.Outcome State Fault Refusal :=
  .next (s.skipIf (s.keyIs x))

/-- EXA1, `SKNP Vx` (R233). -/
def execSknpVx (x : RegIdx) (s : State) : Host.Outcome State Fault Refusal :=
  .next (s.skipIf (!s.keyIs x))

end Sys2Proof.Machine
end

