-- ==== Sys2Proof/Machine/LoadArith.lean ====
section
/-! DEFINITION. Load, arithmetic, logical, shift and random instructions (spec/41_load_arith.md
R140 to R153). All operands are read from the state before the step's first write (R140). -/

namespace Sys2Proof.Machine

/-- 6XNN, `LD Vx, nn` (R142). -/
def execLdVxNn (x : RegIdx) (nn : Byte) (s : State) : Host.Outcome State Fault Refusal :=
  .next (s.setV x nn).next2

/-- 7XNN, `ADD Vx, nn`: modulo 256, no flag (R143). -/
def execAddVxNn (x : RegIdx) (nn : Byte) (s : State) : Host.Outcome State Fault Refusal :=
  .next (s.setV x (s.getV x + nn)).next2

/-- 8XY0, `LD Vx, Vy` (R144). -/
def execLdVxVy (x y : RegIdx) (s : State) : Host.Outcome State Fault Refusal :=
  .next (s.setV x (s.getV y)).next2

/-- 8XY1, `OR Vx, Vy`: no flag (R145). -/
def execOrVxVy (x y : RegIdx) (s : State) : Host.Outcome State Fault Refusal :=
  .next (s.setV x (s.getV x ||| s.getV y)).next2

/-- 8XY2, `AND Vx, Vy`: no flag (R146). -/
def execAndVxVy (x y : RegIdx) (s : State) : Host.Outcome State Fault Refusal :=
  .next (s.setV x (s.getV x &&& s.getV y)).next2

/-- 8XY3, `XOR Vx, Vy`: no flag (R147). -/
def execXorVxVy (x y : RegIdx) (s : State) : Host.Outcome State Fault Refusal :=
  .next (s.setV x (s.getV x ^^^ s.getV y)).next2

/-- 8XY4, `ADD Vx, Vy`: the sum modulo 256, then the carry (R148, R141(a)). -/
def execAddVxVy (x y : RegIdx) (s : State) : Host.Outcome State Fault Refusal :=
  .next (s.setResultThenFlag x (s.getV x + s.getV y) (carryFlag (s.getV x) (s.getV y))).next2

/-- 8XY5, `SUB Vx, Vy`: VX − VY modulo 256, then VX > VY (R149, R141(a); C1, C2). -/
def execSubVxVy (x y : RegIdx) (s : State) : Host.Outcome State Fault Refusal :=
  .next (s.setResultThenFlag x (s.getV x - s.getV y) (greaterFlag (s.getV x) (s.getV y))).next2

/-- 8XY6, `SHR Vx, Vy`: bit 0 of VY, then VY shifted right by one (R150, R141(b)). -/
def execShrVxVy (x y : RegIdx) (s : State) : Host.Outcome State Fault Refusal :=
  .next (s.setFlagThenResult x (s.getV y >>> 1) (lowBitFlag (s.getV y))).next2

/-- 8XY7, `SUBN Vx, Vy`: VY − VX modulo 256, then VY > VX (R151, R141(a); C2). -/
def execSubnVxVy (x y : RegIdx) (s : State) : Host.Outcome State Fault Refusal :=
  .next (s.setResultThenFlag x (s.getV y - s.getV x) (greaterFlag (s.getV y) (s.getV x))).next2

/-- 8XYE, `SHL Vx, Vy`: bit 7 of VY, then VY shifted left by one modulo 256 (R152, R141(b)). -/
def execShlVxVy (x y : RegIdx) (s : State) : Host.Outcome State Fault Refusal :=
  .next (s.setFlagThenResult x (s.getV y <<< 1) (highBitFlag (s.getV y))).next2

/-- CXNN, `RND Vx, nn`: the sampled random byte, masked (R153; log 1). -/
def execRndVxNn (x : RegIdx) (nn : Byte) (s : State) : Host.Outcome State Fault Refusal :=
  .next (s.setV x (s.port.rnd &&& nn)).next2

end Sys2Proof.Machine
end

