-- ==== Sys2Proof/Machine/Skips.lean ====
section
/-! DEFINITION. Conditional-skip instructions (spec/43_skips.md R170 to R173; log 12). -/

namespace Sys2Proof.Machine

/-- 3XNN, `SE Vx, nn` (R170). -/
def execSeVxNn (x : RegIdx) (nn : Byte) (s : State) : Host.Outcome State Fault Refusal :=
  .next (s.skipIf (s.getV x == nn))

/-- 4XNN, `SNE Vx, nn` (R171). -/
def execSneVxNn (x : RegIdx) (nn : Byte) (s : State) : Host.Outcome State Fault Refusal :=
  .next (s.skipIf (s.getV x != nn))

/-- 5XY0, `SE Vx, Vy` (R172). -/
def execSeVxVy (x y : RegIdx) (s : State) : Host.Outcome State Fault Refusal :=
  .next (s.skipIf (s.getV x == s.getV y))

/-- 9XY0, `SNE Vx, Vy` (R173). -/
def execSneVxVy (x y : RegIdx) (s : State) : Host.Outcome State Fault Refusal :=
  .next (s.skipIf (s.getV x != s.getV y))

end Sys2Proof.Machine
end

