-- ==== Sys2Proof/Machine/Timers.lean ====
section
/-! DEFINITION. Timer instructions (spec/44_timers.md R185 to R187). -/

namespace Sys2Proof.Machine

/-- FX15, `LD DT, Vx` (R185). -/
def execLdDtVx (x : RegIdx) (s : State) : Host.Outcome State Fault Refusal :=
  .next (s.setDelay (s.getV x)).next2

/-- FX18, `LD ST, Vx` (R186). -/
def execLdStVx (x : RegIdx) (s : State) : Host.Outcome State Fault Refusal :=
  .next (s.setSound (s.getV x)).next2

/-- FX07, `LD Vx, DT`: the register stores the value modulo 256 (R187, R22; log 22). -/
def execLdVxDt (x : RegIdx) (s : State) : Host.Outcome State Fault Refusal :=
  .next (s.setV x (BitVec.ofInt 8 s.delayTimer)).next2

end Sys2Proof.Machine
end

