-- ==== Sys2Proof/Machine/Fetch.lean ====
section
/-! DEFINITION. The fetch and its two faults (spec/40_fetch_dispatch.md R121). -/

namespace Sys2Proof.Machine

/-- Fetch: MisalignedFetch where `pc` is odd, then AddressOutOfRange where `pc + 1` > 0xFFF, else the
big-endian word of the two bytes (R121, R66, R267). -/
def fetch (s : State) : Except Cause Word :=
  if s.pc.getLsbD 0 then .error .misalignedFetch
  else if 0xFFF < s.pc.toNat + 1 then .error .addressOutOfRange
  else .ok (joinWord (s.mem.read s.pc.toNat) (s.mem.read (s.pc.toNat + 1)))

end Sys2Proof.Machine
end

