-- ==== Sys2Proof/Machine/Step.lean ====
section
/-! DEFINITION. One step of the machine (spec/40_fetch_dispatch.md R120, R125). -/

namespace Sys2Proof.Machine

/-- One step (R120): a halted machine has no successor (R125, R268; log 3); else sample the inputs,
fetch, decode, dispatch and run the handler. A fetch that faults records the word 0x0000, a word no
definition responds to records itself (R268, R98). -/
def step (s : State) : Host.Outcome State Fault Refusal :=
  if s.fault.halted then .fault (.halted s.fault.cause)
  else
    match fetch s.sample with
    | .error c => .next (s.sample.raise c 0)
    | .ok w =>
      match decode w with
      | none => .next (s.sample.raise .unsupportedInstruction w)
      | some i => exec i s.sample

/-- The state whose next step fetches the table word `w` of `nbits` bits (log 9, log 16). -/
def State.withFetchWord (s : State) (nbits w : Nat) : State := s.storeAtPc nbits w

end Sys2Proof.Machine
end

