-- ==== Sys2Proof/Safety.lean ====
section
/-! DEFINITION. What counts as a safe run, in the terms the statements use (spec/60_exceptions.md
R268, spec/40_fetch_dispatch.md R126), and the invariant of the machine (spec/10_state.md R25, R27,
R36). -/

namespace Sys2Proof.Machine

/-- No fault is recorded: the machine runs (R39, R268). -/
def State.running (s : State) : Prop := s.fault.halted = false

/-- A fetch at `pc` meets neither of its two faults (R121). -/
def State.fetchable (s : State) : Prop := s.pc.getLsbD 0 = false ∧ s.pc.toNat ≤ 0xFFE

/-- The word the fetch at `pc` reads, big-endian (R66, R121). -/
def State.wordAtPc (s : State) : Word :=
  joinWord (s.mem.read s.pc.toNat) (s.mem.read (s.pc.toNat + 1))

/-- The conventional end of a program: the word at `pc` is a 1NNN whose `nnn` is `pc` (R126, D25). -/
def State.atSelfJump (s : State) : Prop :=
  s.running ∧ s.fetchable ∧ ∃ nnn : Addr, decode s.wordAtPc = some (.jpNnn nnn) ∧ targetOf nnn = s.pc

/-- A safe run of `n` steps: every state on the way is reached and records no fault (R268). -/
def SafeRun (n : Nat) (s : State) : Prop :=
  ∀ k ≤ n, ∃ t, Sys2Proof.core.run k s = .next t ∧ State.running t

/-- What every reachable state satisfies: memory in canonical form (R60), at most `STACK_DEPTH`
entries (R27), each the even address of a fetched call (R162), `pc` at most 0x10FE (R25), a
non-negative time base (R33), timer targets at most 255 ahead (R181), and a fault record that is
clear while the machine runs and precise once it has halted (R32, R268). -/
structure Inv (s : State) : Prop where
  memCanonical  : Memory.wf s.mem = true
  stackBounded  : s.stack.length ≤ Config.stackDepth
  stackCalls    : ∀ a ∈ s.stack, a.getLsbD 0 = false ∧ a.toNat ≤ 0xFFE
  pcBounded     : s.pc.toNat ≤ 0x10FE
  timeNonneg    : 0 ≤ s.port.now
  delayBounded  : s.dtTarget ≤ s.port.now + 255
  soundBounded  : s.stTarget ≤ s.port.now + 255
  recordClear   : s.fault.halted = false → s.fault = FaultRecord.clear
  recordPrecise : s.fault.halted = true → s.fault.cause ≠ .none ∧ s.fault.pc = s.pc

end Sys2Proof.Machine
end

