-- ==== Sys2Proof/Certificates/Slice0/Obligations.lean ====
section
/-! DEFINITION. The statements about the machine, from the numbered rules of spec/. First the words
the statements are written in, then the statements. -/

namespace Sys2Proof.Machine

/-! ### What stays unchanged from `s` to `t` -/

/-- Every general register. -/
def SameV (s t : State) : Prop := ∀ r, t.getV r = s.getV r

/-- Every byte of memory, as read. -/
def SameMem (s t : State) : Prop := ∀ a, Memory.read t.mem a = Memory.read s.mem a

/-- Every pixel. -/
def SameDisp (s t : State) : Prop := ∀ c r, Disp.pixel t.disp c r = Disp.pixel s.disp c r

/-- Both timer targets. -/
def SameTimers (s t : State) : Prop := t.dtTarget = s.dtTarget ∧ t.stTarget = s.stTarget

/-- The input latches, the coming draws and their count. -/
def SameInputs (s t : State) : Prop := t.port = s.port ∧ t.script = s.script ∧ t.drawn = s.drawn

/-- Everything but general registers and `pc`. -/
def KeepsAllButV (s t : State) : Prop :=
  t.I = s.I ∧ t.stack = s.stack ∧ SameTimers s t ∧ SameMem s t ∧ SameDisp s t ∧
    t.fault = s.fault ∧ SameInputs s t

/-- Everything but `pc`. -/
def KeepsAllButPc (s t : State) : Prop := SameV s t ∧ KeepsAllButV s t

/-- Everything but I and `pc`. -/
def KeepsAllButI (s t : State) : Prop :=
  SameV s t ∧ t.stack = s.stack ∧ SameTimers s t ∧ SameMem s t ∧ SameDisp s t ∧
    t.fault = s.fault ∧ SameInputs s t

/-- Everything but the call stack and `pc`. -/
def KeepsAllButStack (s t : State) : Prop :=
  SameV s t ∧ t.I = s.I ∧ SameTimers s t ∧ SameMem s t ∧ SameDisp s t ∧
    t.fault = s.fault ∧ SameInputs s t

/-- Everything but memory and `pc`. -/
def KeepsAllButMem (s t : State) : Prop :=
  SameV s t ∧ t.I = s.I ∧ t.stack = s.stack ∧ SameTimers s t ∧ SameDisp s t ∧
    t.fault = s.fault ∧ SameInputs s t

/-- Everything but the display, the register VF and `pc`. -/
def KeepsAllButDispVF (s t : State) : Prop :=
  (∀ r, r ≠ VF → t.getV r = s.getV r) ∧ t.I = s.I ∧ t.stack = s.stack ∧ SameTimers s t ∧
    SameMem s t ∧ t.fault = s.fault ∧ SameInputs s t

/-- From `s` to `t` the fault `c` was taken with the word `w` (R268): the record holds halted, the
cause, the `pc` of the step and the word, and nothing else changed, `pc` included. That fault entry is
a next state is log 3; that a handler's fault records the encoding of its instruction is log 15. -/
def TookFault (s t : State) (c : Cause) (w : Word) : Prop :=
  t.fault = { halted := true, cause := c, pc := s.pc, word := w } ∧ t.pc = s.pc ∧ SameV s t ∧
    t.I = s.I ∧ t.stack = s.stack ∧ SameTimers s t ∧ SameMem s t ∧ SameDisp s t ∧ SameInputs s t

/-- `w` is the one word of the instruction `i`: it encodes to `w` and `w` decodes to it. -/
def IsWordOf (w : Word) (i : Instr) : Prop := encode i = w ∧ decode w = some i

/-- The instruction completes in a state with the property `P`. -/
def Completes (i : Instr) (s : State) (P : State → Prop) : Prop := ∃ t, exec i s = .next t ∧ P t

/-! ### Words of single rules -/

/-- `k` is `d` rounded to the nearest integer, an exact half to the even one (R181). -/
def IsRounded (d : Rat) (k : Int) : Prop :=
  |d - k| ≤ 1 / 2 ∧ (|d - k| = 1 / 2 → k % 2 = 0)

/-- Some 1 bit of the `n`-row sprite with row bytes `row 0, row 1, …` and origin `(x, y)` lands on
the pixel `(c, r)`: sprite column `i` is bit `7 − i`, wrapped modulo 64, sprite row `j` wrapped
modulo 32 (R211). -/
def SpriteLandsOn (x y n : Nat) (row : Nat → Byte) (c : Fin 64) (r : Fin 32) : Prop :=
  ∃ j < n, ∃ i < 8, c.val = (x + i) % 64 ∧ r.val = (y + j) % 32 ∧ (row j).getLsbD (7 - i) = true

/-- The registers an instruction may write: its destination, VF where R23 names it as the flag, and
V0 .. VX for FX65. -/
def MayWriteV (i : Instr) (r : RegIdx) : Prop :=
  match i with
  | .ldVxNn x _ | .addVxNn x _ | .ldVxVy x _ | .orVxVy x _ | .andVxVy x _ | .xorVxVy x _ => r = x
  | .addVxVy x _ | .subVxVy x _ | .shrVxVy x _ | .subnVxVy x _ | .shlVxVy x _ => r = x ∨ r = VF
  | .rndVxNn x _ | .ldVxDt x | .ldVxK x => r = x
  | .ldVxMemI x => r.val ≤ x.val
  | .drwVxVyN _ _ _ => r = VF
  | .jpNnn _ | .jpV0Nnn _ | .callNnn _ | .ret | .seVxNn _ _ | .sneVxNn _ _ | .seVxVy _ _ => False
  | .sneVxVy _ _ | .ldDtVx _ | .ldStVx _ | .ldINnn _ | .addIVx _ | .ldBVx _ | .ldMemIVx _ => False
  | .ldFVx _ | .cls | .skpVx _ | .sknpVx _ | .sysNnn _ => False

/-- When the handler of an instruction faults (R292, R261 to R265). -/
def HandlerFaults (i : Instr) (s : State) : Prop :=
  match i with
  | .sysNnn _ => True
  | .callNnn _ => Config.stackDepth ≤ s.stack.length
  | .ret => s.stack = []
  | .ldBVx _ => 0xFFF < s.addrAtI 2
  | .ldMemIVx x | .ldVxMemI x => 0xFFF < s.addrAtI x.val
  | .drwVxVyN _ _ n => 0 < n.toNat ∧ 0xFFF < s.addrAtI (n.toNat - 1)
  | .ldVxNn _ _ | .addVxNn _ _ | .ldVxVy _ _ | .orVxVy _ _ | .andVxVy _ _ | .xorVxVy _ _ => False
  | .addVxVy _ _ | .subVxVy _ _ | .shrVxVy _ _ | .subnVxVy _ _ | .shlVxVy _ _ => False
  | .rndVxNn _ _ | .jpNnn _ | .jpV0Nnn _ | .seVxNn _ _ | .sneVxNn _ _ | .seVxVy _ _ => False
  | .sneVxVy _ _ | .ldDtVx _ | .ldStVx _ | .ldVxDt _ | .ldINnn _ | .addIVx _ | .ldFVx _ => False
  | .cls | .ldVxK _ | .skpVx _ | .sknpVx _ => False

/-- The one kind of fault the handler of an instruction can raise (R267). -/
def HandlerCause (i : Instr) (c : Cause) : Prop :=
  match c with
  | .none => False
  | .misalignedFetch => False
  | .unsupportedInstruction => ∃ nnn, i = .sysNnn nnn
  | .stackOverflow => ∃ nnn, i = .callNnn nnn
  | .stackUnderflow => i = .ret
  | .addressOutOfRange =>
    (∃ x, i = .ldBVx x ∨ i = .ldMemIVx x ∨ i = .ldVxMemI x) ∨ ∃ x y n, i = .drwVxVyN x y n

/-- Where `pc` goes when the handler of `i` takes `s` to `t` without a fault (R122). -/
def PcAfter (i : Instr) (s t : State) : Prop :=
  match i.pcClass with
  | .seq => t.pc = s.pc + 2
  | .skip => t.pc = s.pc + 2 ∨ t.pc = s.pc + 4
  | .jump => (∃ nnn, (i = .jpNnn nnn ∨ i = .callNnn nnn) ∧ t.pc.toNat = nnn.toNat) ∨
      (∃ nnn, i = .jpV0Nnn nnn ∧ t.pc.toNat = nnn.toNat + (s.getV 0).toNat) ∨
      (i = .ret ∧ ∃ v rest, s.stack = v :: rest ∧ t.pc = v + 2)
  | .wait => if s.port.key = none then t.pc = s.pc else t.pc = s.pc + 2
  | .fault => False

/-- Does an instruction consult the inputs: CXNN `rnd`; FX15, FX18, FX07 `now`; FX0A, EX9E, EXA1
`key` (R33, R230)? -/
def ConsultsInputs (i : Instr) : Prop :=
  (∃ x nn, i = .rndVxNn x nn) ∨ (∃ x, i = .ldDtVx x ∨ i = .ldStVx x ∨ i = .ldVxDt x) ∨
    ∃ x, i = .ldVxK x ∨ i = .skpVx x ∨ i = .sknpVx x

end Sys2Proof.Machine

open Sys2Proof Sys2Proof.Machine

/-! ### Encoding, decoding, dispatch -/

/-- Words written out from the spec's encodings decode to their instructions, and words of R98 to
none (R96, R98, R99; vectors E8 to E13 and examples of the instruction rules). -/
def Obligations.SpecWordsDecode : Prop :=
  decode 0x6A2B = some (.ldVxNn 10 0x2B) ∧ decode 0x8104 = some (.addVxVy 1 0) ∧
  decode 0x8127 = some (.subnVxVy 1 2) ∧ decode 0x812E = some (.shlVxVy 1 2) ∧
  decode 0x220A = some (.callNnn 0x20A) ∧ decode 0x00EE = some .ret ∧
  decode 0x00E0 = some .cls ∧ decode 0x0123 = some (.sysNnn 0x123) ∧
  decode 0x9230 = some (.sneVxVy 2 3) ∧ decode 0xF107 = some (.ldVxDt 1) ∧
  decode 0xF255 = some (.ldMemIVx 2) ∧ decode 0xD12F = some (.drwVxVyN 1 2 15) ∧
  decode 0xFF0A = some (.ldVxK 15) ∧ decode 0xE2A1 = some (.sknpVx 2) ∧
  decode 0x5231 = none ∧ decode 0x8128 = none ∧ decode 0xE29F = none ∧ decode 0xFFFF = none

/-- Decoding the bytes of any well-formed instruction gives it back, with every operand at every
value, and consumes exactly its two bytes (R90, R92, R96, R97). -/
def Obligations.DecodeOfEncodeIsTheInstruction : Prop :=
  ∀ (i : Instr) (rest : List Byte), i.wellFormed = true →
    decode (encode i) = some i ∧ decodeBytes (encodeBytes i ++ rest) = .ok (i, rest)

/-- A word that decodes is the word of its instruction, which is well formed: no word has two
meanings and no bit of a word is dropped (R91, R93, R96). -/
def Obligations.EncodeOfDecodeIsTheWord : Prop :=
  ∀ (w : Word) (i : Instr), decode w = some i → encode i = w ∧ i.wellFormed = true

/-- The words that select no instruction, family by family (R98). -/
def Obligations.UnmatchedWordsByFamily : Prop :=
  ∀ w : Word, decode w = none ↔
    ((decodeFields w).family = 0x5 ∧ (decodeFields w).n ≠ 0) ∨
    ((decodeFields w).family = 0x8 ∧ 7 < (decodeFields w).n.toNat ∧ (decodeFields w).n ≠ 0xE) ∨
    ((decodeFields w).family = 0x9 ∧ (decodeFields w).n ≠ 0) ∨
    ((decodeFields w).family = 0xE ∧ (decodeFields w).nn ∉ ([0x9E, 0xA1] : List Byte)) ∨
    ((decodeFields w).family = 0xF ∧
      (decodeFields w).nn ∉ ([0x07, 0x0A, 0x15, 0x18, 0x1E, 0x29, 0x33, 0x55, 0x65] : List Byte))

/-- Two rows of the table respond to one word only for 0x00EE (00EE before 0NNN) and 0x00E0 (00E0
before 0NNN) (R97). -/
def Obligations.TableOverlapsOnlyTwice : Prop :=
  ∀ (w : Word) (j k : Nat) (r q : Row), j < k → dispatchTable[j]? = some r →
    dispatchTable[k]? = some q →
    ((respondsTo r.mtch r.mask w = true ∧ respondsTo q.mtch q.mask w = true) ↔
      (w = 0x00EE ∧ j = 15 ∧ k = 34) ∨ (w = 0x00E0 ∧ j = 30 ∧ k = 34))

/-- A compiled pattern matches a word exactly when every literal nibble equals the word's nibble;
wildcard nibbles impose no constraint (R94, R95). -/
def Obligations.CompiledPatternMatchesByNibble : Prop :=
  ∀ (c3 c2 c1 c0 : Char) (m k w : Word), compilePattern [c3, c2, c1, c0] = some (m, k) →
    (respondsTo m k w = true ↔
      (∀ d, hexDigit c3 = some d → w.extractLsb' 12 4 = d) ∧
      (∀ d, hexDigit c2 = some d → w.extractLsb' 8 4 = d) ∧
      (∀ d, hexDigit c1 = some d → w.extractLsb' 4 4 = d) ∧
      (∀ d, hexDigit c0 = some d → w.extractLsb' 0 4 = d))

/-! ### Load, arithmetic, logic, shift, random -/

/-- 6XNN (R142). -/
def Obligations.LoadImmediate : Prop :=
  ∀ (x : RegIdx) (nn : Byte) (s : State),
    IsWordOf (0x6#4 ++ regField x ++ nn) (.ldVxNn x nn) ∧
    Completes (.ldVxNn x nn) s fun t =>
      (∀ r, t.getV r = if r = x then nn else s.getV r) ∧ t.pc = s.pc + 2 ∧ KeepsAllButV s t

/-- 7XNN (R143): the sum wraps at 256 and no flag is written. -/
def Obligations.AddImmediate : Prop :=
  ∀ (x : RegIdx) (nn : Byte) (s : State),
    IsWordOf (0x7#4 ++ regField x ++ nn) (.addVxNn x nn) ∧
    Completes (.addVxNn x nn) s fun t =>
      (∀ r, (t.getV r).toNat =
        if r = x then ((s.getV x).toNat + nn.toNat) % 256 else (s.getV r).toNat) ∧
      t.pc = s.pc + 2 ∧ KeepsAllButV s t

/-- 8XY0 to 8XY3 (R144 to R147): copy and the three logical instructions, bit by bit; none writes VF
unless X = F. -/
def Obligations.CopyAndLogic : Prop :=
  ∀ (x y : RegIdx) (s : State),
    (IsWordOf (0x8#4 ++ regField x ++ regField y ++ 0x0#4) (.ldVxVy x y) ∧
      Completes (.ldVxVy x y) s fun t =>
        (∀ r, t.getV r = if r = x then s.getV y else s.getV r) ∧
        t.pc = s.pc + 2 ∧ KeepsAllButV s t) ∧
    (IsWordOf (0x8#4 ++ regField x ++ regField y ++ 0x1#4) (.orVxVy x y) ∧
      Completes (.orVxVy x y) s fun t =>
        (∀ r (k : Nat), (t.getV r).getLsbD k =
          if r = x then (s.getV x).getLsbD k || (s.getV y).getLsbD k else (s.getV r).getLsbD k) ∧
        t.pc = s.pc + 2 ∧ KeepsAllButV s t) ∧
    (IsWordOf (0x8#4 ++ regField x ++ regField y ++ 0x2#4) (.andVxVy x y) ∧
      Completes (.andVxVy x y) s fun t =>
        (∀ r (k : Nat), (t.getV r).getLsbD k =
          if r = x then (s.getV x).getLsbD k && (s.getV y).getLsbD k else (s.getV r).getLsbD k) ∧
        t.pc = s.pc + 2 ∧ KeepsAllButV s t) ∧
    (IsWordOf (0x8#4 ++ regField x ++ regField y ++ 0x3#4) (.xorVxVy x y) ∧
      Completes (.xorVxVy x y) s fun t =>
        (∀ r (k : Nat), (t.getV r).getLsbD k =
          if r = x then (s.getV x).getLsbD k ^^ (s.getV y).getLsbD k else (s.getV r).getLsbD k) ∧
        t.pc = s.pc + 2 ∧ KeepsAllButV s t)

/-- 8XY4 (R148, R141(a)): VF is 1 exactly when the sum exceeds 255, with X = F too
(order of the two writes: log 14). -/
def Obligations.AddWithCarry : Prop :=
  ∀ (x y : RegIdx) (s : State),
    IsWordOf (0x8#4 ++ regField x ++ regField y ++ 0x4#4) (.addVxVy x y) ∧
    Completes (.addVxVy x y) s fun t =>
      (∀ r, (t.getV r).toNat =
        if r = VF then (if (s.getV x).toNat + (s.getV y).toNat > 255 then 1 else 0)
        else if r = x then ((s.getV x).toNat + (s.getV y).toNat) % 256
        else (s.getV r).toNat) ∧
      t.pc = s.pc + 2 ∧ KeepsAllButV s t

/-- 8XY5, 8XY7 (R149, R151, R141(a)): VF is 1 exactly when the minuend before is strictly greater than
the subtrahend before, else 0, equal operands included; with X = F the flag remains (log 14). -/
def Obligations.SubtractBothWays : Prop :=
  ∀ (x y : RegIdx) (s : State),
    (IsWordOf (0x8#4 ++ regField x ++ regField y ++ 0x5#4) (.subVxVy x y) ∧
      Completes (.subVxVy x y) s fun t =>
        (∀ r, ((t.getV r).toNat : Int) =
          if r = VF then (if (s.getV x).toNat > (s.getV y).toNat then 1 else 0)
          else if r = x then (((s.getV x).toNat : Int) - (s.getV y).toNat) % 256
          else (s.getV r).toNat) ∧
        t.pc = s.pc + 2 ∧ KeepsAllButV s t) ∧
    (IsWordOf (0x8#4 ++ regField x ++ regField y ++ 0x7#4) (.subnVxVy x y) ∧
      Completes (.subnVxVy x y) s fun t =>
        (∀ r, ((t.getV r).toNat : Int) =
          if r = VF then (if (s.getV y).toNat > (s.getV x).toNat then 1 else 0)
          else if r = x then (((s.getV y).toNat : Int) - (s.getV x).toNat) % 256
          else (s.getV r).toNat) ∧
        t.pc = s.pc + 2 ∧ KeepsAllButV s t)

/-- 8XY6, 8XYE (R150, R152, R141(b)): VY shifted by one into VX, VF the bit shifted out; with X = F
the register VF ends holding the shifted result (log 14). -/
def Obligations.ShiftBothWays : Prop :=
  ∀ (x y : RegIdx) (s : State),
    (IsWordOf (0x8#4 ++ regField x ++ regField y ++ 0x6#4) (.shrVxVy x y) ∧
      Completes (.shrVxVy x y) s fun t =>
        (∀ r, (t.getV r).toNat =
          if r = x then (s.getV y).toNat / 2
          else if r = VF then (s.getV y).toNat % 2
          else (s.getV r).toNat) ∧
        t.pc = s.pc + 2 ∧ KeepsAllButV s t) ∧
    (IsWordOf (0x8#4 ++ regField x ++ regField y ++ 0xE#4) (.shlVxVy x y) ∧
      Completes (.shlVxVy x y) s fun t =>
        (∀ r, (t.getV r).toNat =
          if r = x then (s.getV y).toNat * 2 % 256
          else if r = VF then (s.getV y).toNat / 128
          else (s.getV r).toNat) ∧
        t.pc = s.pc + 2 ∧ KeepsAllButV s t)

/-- CXNN (R153): the step's random byte under the mask, whatever that byte is. That the handler finds
the sample in `port` is the model's form (log 1, log 19). -/
def Obligations.RandomUnderMask : Prop :=
  ∀ (x : RegIdx) (nn : Byte) (s : State),
    IsWordOf (0xC#4 ++ regField x ++ nn) (.rndVxNn x nn) ∧
    Completes (.rndVxNn x nn) s fun t =>
      (∀ r (k : Nat), (t.getV r).getLsbD k =
        if r = x then s.port.rnd.getLsbD k && nn.getLsbD k else (s.getV r).getLsbD k) ∧
      t.pc = s.pc + 2 ∧ KeepsAllButV s t

/-! ### Control flow -/

/-- 1NNN (R160): `pc` becomes `nnn`, unchecked; an odd target faults at the next fetch. -/
def Obligations.JumpAbsolute : Prop :=
  ∀ (nnn : Addr) (s : State),
    IsWordOf (0x1#4 ++ nnn) (.jpNnn nnn) ∧
    Completes (.jpNnn nnn) s fun t =>
      t.pc.toNat = nnn.toNat ∧ KeepsAllButPc s t ∧
      (nnn.getLsbD 0 = true → fetch t = .error .misalignedFetch)

/-- BNNN (R161): `pc` becomes `nnn + V0`, not reduced; an odd sum faults as misaligned, an even sum
from 0x1000 on as out of range, at the next fetch. -/
def Obligations.JumpPlusV0 : Prop :=
  ∀ (nnn : Addr) (s : State),
    IsWordOf (0xB#4 ++ nnn) (.jpV0Nnn nnn) ∧
    Completes (.jpV0Nnn nnn) s fun t =>
      t.pc.toNat = nnn.toNat + (s.getV 0).toNat ∧ KeepsAllButPc s t ∧
      (t.pc.toNat % 2 = 1 → fetch t = .error .misalignedFetch) ∧
      (t.pc.toNat % 2 = 0 → 0x1000 ≤ t.pc.toNat → fetch t = .error .addressOutOfRange)

/-- 2NNN (R162, R264): pushes its own address, then jumps; on a full stack it takes StackOverflow. -/
def Obligations.CallPushesItsAddress : Prop :=
  ∀ (nnn : Addr) (s : State),
    IsWordOf (0x2#4 ++ nnn) (.callNnn nnn) ∧
    (s.stack.length < Config.stackDepth → Completes (.callNnn nnn) s fun t =>
      t.stack = s.pc :: s.stack ∧ t.pc.toNat = nnn.toNat ∧ KeepsAllButStack s t) ∧
    (Config.stackDepth ≤ s.stack.length → Completes (.callNnn nnn) s fun t =>
      TookFault s t .stackOverflow (0x2#4 ++ nnn))

/-- 00EE (R163, R265): `pc` becomes the popped entry plus 2; on an empty stack it takes
StackUnderflow. -/
def Obligations.ReturnResumesAfterTheCall : Prop :=
  ∀ s : State,
    IsWordOf 0x00EE .ret ∧
    (∀ v rest, s.stack = v :: rest → Completes .ret s fun t =>
      t.stack = rest ∧ t.pc = v + 2 ∧ KeepsAllButStack s t) ∧
    (s.stack = [] → Completes .ret s fun t => TookFault s t .stackUnderflow 0x00EE)

/-- 0NNN (R164): always takes UnsupportedInstruction with its word and the step's `pc`, and changes
nothing else. -/
def Obligations.NativeCallFaults : Prop :=
  ∀ (nnn : Addr) (s : State),
    (nnn ≠ 0x0E0 → nnn ≠ 0x0EE → IsWordOf (0x0#4 ++ nnn) (.sysNnn nnn)) ∧
    Completes (.sysNnn nnn) s fun t => TookFault s t .unsupportedInstruction (0x0#4 ++ nnn)

/-- A return after a call, whatever ran between, so long as the stack is as the call left it, resumes
at the word after the call with the stack as before the call (R27, R162, R163; C5). -/
def Obligations.CallThenReturn : Prop :=
  ∀ (nnn : Addr) (s : State), s.stack.length < Config.stackDepth →
    ∃ t, exec (.callNnn nnn) s = .next t ∧
      ∀ u : State, u.stack = t.stack →
        ∃ v, exec .ret u = .next v ∧ v.stack = s.stack ∧ v.pc = s.pc + 2

/-! ### Skips -/

/-- 3XNN, 4XNN (R170, R171): skip by 4 on equal, respectively on unequal, all eight bits compared;
exactly one of the two skips (log 12). -/
def Obligations.SkipOnImmediate : Prop :=
  ∀ (x : RegIdx) (nn : Byte) (s : State),
    IsWordOf (0x3#4 ++ regField x ++ nn) (.seVxNn x nn) ∧
    IsWordOf (0x4#4 ++ regField x ++ nn) (.sneVxNn x nn) ∧
    (Completes (.seVxNn x nn) s fun t =>
      (t.pc = if (s.getV x).toNat = nn.toNat then s.pc + 4 else s.pc + 2) ∧ KeepsAllButPc s t) ∧
    (Completes (.sneVxNn x nn) s fun t =>
      (t.pc = if (s.getV x).toNat = nn.toNat then s.pc + 2 else s.pc + 4) ∧ KeepsAllButPc s t)

/-- 5XY0, 9XY0 (R172, R173): skip by 4 on equal, respectively on unequal registers (log 12). -/
def Obligations.SkipOnRegister : Prop :=
  ∀ (x y : RegIdx) (s : State),
    IsWordOf (0x5#4 ++ regField x ++ regField y ++ 0x0#4) (.seVxVy x y) ∧
    IsWordOf (0x9#4 ++ regField x ++ regField y ++ 0x0#4) (.sneVxVy x y) ∧
    (Completes (.seVxVy x y) s fun t =>
      (t.pc = if (s.getV x).toNat = (s.getV y).toNat then s.pc + 4 else s.pc + 2) ∧
      KeepsAllButPc s t) ∧
    (Completes (.sneVxVy x y) s fun t =>
      (t.pc = if (s.getV x).toNat = (s.getV y).toNat then s.pc + 2 else s.pc + 4) ∧
      KeepsAllButPc s t)

/-- A step that runs a skip instruction does not depend on any byte of memory but the two of its own
word: the skipped word may be anything (R123). -/
def Obligations.SkippedWordIsNotRead : Prop :=
  ∀ (s : State) (m : Memory) (i : Instr), decode s.wordAtPc = some i → i.pcClass = .skip →
    ({ s with mem := m } : State).wordAtPc = s.wordAtPc →
    ∀ t, step s = .next t → step { s with mem := m } = .next { t with mem := m }

/-! ### Timers -/

/-- FX15, FX18 (R185, R186, R182): the target becomes `now + V[x]`, the other timer is untouched. That
the handler finds the sample of `now` in `port` is the model's form (log 1, log 19). -/
def Obligations.TimerWrites : Prop :=
  ∀ (x : RegIdx) (s : State),
    IsWordOf (0xF#4 ++ regField x ++ 0x15#8) (.ldDtVx x) ∧
    IsWordOf (0xF#4 ++ regField x ++ 0x18#8) (.ldStVx x) ∧
    (Completes (.ldDtVx x) s fun t =>
      t.dtTarget = s.port.now + ((s.getV x).toNat : Rat) ∧ t.stTarget = s.stTarget ∧
      t.pc = s.pc + 2 ∧ SameV s t ∧ t.I = s.I ∧ t.stack = s.stack ∧ SameMem s t ∧ SameDisp s t ∧
      t.fault = s.fault ∧ SameInputs s t) ∧
    (Completes (.ldStVx x) s fun t =>
      t.stTarget = s.port.now + ((s.getV x).toNat : Rat) ∧ t.dtTarget = s.dtTarget ∧
      t.pc = s.pc + 2 ∧ SameV s t ∧ t.I = s.I ∧ t.stack = s.stack ∧ SameMem s t ∧ SameDisp s t ∧
      t.fault = s.fault ∧ SameInputs s t)

/-- FX07 (R187, R181): V[x] becomes `max(0, round(DT.target − now))`, nearest with ties to even (log 7). The
whole value is stored, because a target is at most 255 ahead; where it is further ahead, which no run
reaches, the register still holds it modulo 256 (R22; log 22). -/
def Obligations.DelayTimerRead : Prop :=
  ∀ (x : RegIdx) (s : State),
    IsWordOf (0xF#4 ++ regField x ++ 0x07#8) (.ldVxDt x) ∧
    Completes (.ldVxDt x) s fun t =>
      (∃ k : Int, IsRounded (s.dtTarget - s.port.now) k ∧
        ((t.getV x).toNat : Int) = max 0 k % 256 ∧
        (s.dtTarget ≤ s.port.now + 255 → ((t.getV x).toNat : Int) = max 0 k)) ∧
      (∀ r, r ≠ x → t.getV r = s.getV r) ∧ t.pc = s.pc + 2 ∧ KeepsAllButV s t

/-- What a program can rely on of a timer written with `v` at the time `n` (R183; log 7): at the same time
it reads `v`; it never rises; it is 0 from an advance of `v − ½` on and stays 0; after an advance by
a whole number it reads what is left. -/
def Obligations.TimerCountsDown : Prop :=
  ∀ (v : Byte) (n p q : Rat),
    timerRead (timerTarget n v) n = v.toNat ∧
    (n ≤ p → p ≤ q → timerRead (timerTarget n v) q ≤ timerRead (timerTarget n v) p) ∧
    ((v.toNat : Rat) - 1 / 2 ≤ p - n → timerRead (timerTarget n v) p = 0) ∧
    (∀ k : Nat, timerRead (timerTarget n v) (n + k) = ((v.toNat - k : Nat) : Int))

/-! ### Address register, BCD, blocks -/

/-- ANNN, FX1E, FX29 (R190, R191, R195): I becomes `nnn`; `I + V[x]` modulo 4096 with no flag; five
times the low nibble of `V[x]`. -/
def Obligations.AddressRegisterWrites : Prop :=
  ∀ (x : RegIdx) (nnn : Addr) (s : State),
    IsWordOf (0xA#4 ++ nnn) (.ldINnn nnn) ∧
    IsWordOf (0xF#4 ++ regField x ++ 0x1E#8) (.addIVx x) ∧
    IsWordOf (0xF#4 ++ regField x ++ 0x29#8) (.ldFVx x) ∧
    (Completes (.ldINnn nnn) s fun t => t.I = nnn ∧ t.pc = s.pc + 2 ∧ KeepsAllButI s t) ∧
    (Completes (.addIVx x) s fun t =>
      t.I.toNat = (s.I.toNat + (s.getV x).toNat) % 4096 ∧ t.pc = s.pc + 2 ∧ KeepsAllButI s t) ∧
    (Completes (.ldFVx x) s fun t =>
      t.I.toNat = Config.fontBase + (s.getV x).toNat % 16 * 5 ∧ t.pc = s.pc + 2 ∧ KeepsAllButI s t)

/-- FX33 (R192): hundreds, tens, ones at I, I+1, I+2 and no other byte; past 0xFFF it takes
AddressOutOfRange and stores nothing. -/
def Obligations.StoreDecimalDigits : Prop :=
  ∀ (x : RegIdx) (s : State),
    IsWordOf (0xF#4 ++ regField x ++ 0x33#8) (.ldBVx x) ∧
    (s.addrAtI 2 ≤ 0xFFF → Completes (.ldBVx x) s fun t =>
      (Memory.read t.mem (s.addrAtI 0)).toNat = (s.getV x).toNat / 100 ∧
      (Memory.read t.mem (s.addrAtI 1)).toNat = (s.getV x).toNat / 10 % 10 ∧
      (Memory.read t.mem (s.addrAtI 2)).toNat = (s.getV x).toNat % 10 ∧
      (∀ a, a < s.addrAtI 0 ∨ s.addrAtI 2 < a → Memory.read t.mem a = Memory.read s.mem a) ∧
      t.pc = s.pc + 2 ∧ KeepsAllButMem s t) ∧
    (0xFFF < s.addrAtI 2 → Completes (.ldBVx x) s fun t =>
      TookFault s t .addressOutOfRange (0xF#4 ++ regField x ++ 0x33#8))

/-- FX55 (R193): V[k] at I + k for k = 0 .. X, both ends included, and no other byte; past 0xFFF it
takes AddressOutOfRange and stores nothing. -/
def Obligations.StoreRegisters : Prop :=
  ∀ (x : RegIdx) (s : State),
    IsWordOf (0xF#4 ++ regField x ++ 0x55#8) (.ldMemIVx x) ∧
    (s.addrAtI x.val ≤ 0xFFF → Completes (.ldMemIVx x) s fun t =>
      (∀ r : RegIdx, r.val ≤ x.val → Memory.read t.mem (s.addrAtI r.val) = s.getV r) ∧
      (∀ a, a < s.addrAtI 0 ∨ s.addrAtI x.val < a → Memory.read t.mem a = Memory.read s.mem a) ∧
      t.pc = s.pc + 2 ∧ KeepsAllButMem s t) ∧
    (0xFFF < s.addrAtI x.val → Completes (.ldMemIVx x) s fun t =>
      TookFault s t .addressOutOfRange (0xF#4 ++ regField x ++ 0x55#8))

/-- FX65 (R194): V[k] becomes the byte at I + k for k = 0 .. X, the registers above VX are unchanged;
past 0xFFF it takes AddressOutOfRange and loads nothing. -/
def Obligations.LoadRegisters : Prop :=
  ∀ (x : RegIdx) (s : State),
    IsWordOf (0xF#4 ++ regField x ++ 0x65#8) (.ldVxMemI x) ∧
    (s.addrAtI x.val ≤ 0xFFF → Completes (.ldVxMemI x) s fun t =>
      (∀ r : RegIdx, t.getV r =
        if r.val ≤ x.val then Memory.read s.mem (s.addrAtI r.val) else s.getV r) ∧
      t.pc = s.pc + 2 ∧ KeepsAllButV s t) ∧
    (0xFFF < s.addrAtI x.val → Completes (.ldVxMemI x) s fun t =>
      TookFault s t .addressOutOfRange (0xF#4 ++ regField x ++ 0x65#8))

/-- An FX55 followed by an FX65 with the same I and X restores V0 .. VX exactly, whatever the
registers held in between (R193, R194). -/
def Obligations.StoreThenLoadRestores : Prop :=
  ∀ (x : RegIdx) (s : State), s.addrAtI x.val ≤ 0xFFF →
    ∃ t, exec (.ldMemIVx x) s = .next t ∧
      ∀ u : State, u.mem = t.mem → u.I = s.I →
        ∃ v, exec (.ldVxMemI x) u = .next v ∧
          (∀ r : RegIdx, r.val ≤ x.val → v.getV r = s.getV r)

/-- Self-modifying code: an FX55 through an I that points just behind it makes the next fetch read V0
and V1, the byte at the lower address as bits 15:8 (R66, R67, R74). -/
def Obligations.StoredWordIsFetchedNext : Prop :=
  ∀ (x : RegIdx) (s : State), 1 ≤ x.val → s.fetchable → s.I.toNat = s.pc.toNat + 2 →
    s.addrAtI x.val ≤ 0xFFF →
    ∃ t, exec (.ldMemIVx x) s = .next t ∧
      fetch t = .ok (joinWord (s.getV 0) (s.getV 1))

/-- Memories in canonical form that read the same at every address of the space are the same data
(log 21; R30, R60). -/
def Obligations.CanonicalMemoryIsUnique : Prop :=
  ∀ m n : Memory, Memory.wf m = true → Memory.wf n = true →
    (∀ a < Config.memSize, Memory.read m a = Memory.read n a) → m = n

/-! ### Display -/

/-- DXYN (R213, R211): a pixel toggles exactly where a 1 bit of the sprite lands on it; VF becomes 1
exactly when one such pixel was on, else 0; the origin is V[x], V[y] before the step, X = F and Y = F
included; n = 0 draws nothing and cannot fault; past 0xFFF it takes AddressOutOfRange. The order of
the bits of a row byte is log 13. -/
def Obligations.DrawSprite : Prop :=
  ∀ (x y : RegIdx) (n : Nibble) (s : State),
    IsWordOf (0xD#4 ++ regField x ++ regField y ++ n) (.drwVxVyN x y n) ∧
    ((n = 0 ∨ s.addrAtI (n.toNat - 1) ≤ 0xFFF) → Completes (.drwVxVyN x y n) s fun t =>
      (∀ c r, Disp.pixel t.disp c r ≠ Disp.pixel s.disp c r ↔
        SpriteLandsOn (s.getV x).toNat (s.getV y).toNat n.toNat
          (fun j => Memory.read s.mem (s.addrAtI j)) c r) ∧
      ((∃ c r, SpriteLandsOn (s.getV x).toNat (s.getV y).toNat n.toNat
          (fun j => Memory.read s.mem (s.addrAtI j)) c r ∧ Disp.pixel s.disp c r = true) →
        t.getV VF = 1) ∧
      (¬ (∃ c r, SpriteLandsOn (s.getV x).toNat (s.getV y).toNat n.toNat
          (fun j => Memory.read s.mem (s.addrAtI j)) c r ∧ Disp.pixel s.disp c r = true) →
        t.getV VF = 0) ∧
      t.pc = s.pc + 2 ∧ KeepsAllButDispVF s t) ∧
    (n ≠ 0 → 0xFFF < s.addrAtI (n.toNat - 1) → Completes (.drwVxVyN x y n) s fun t =>
      TookFault s t .addressOutOfRange (0xD#4 ++ regField x ++ regField y ++ n))

/-- 00E0 (R214, R212): every pixel off, VF and everything else unchanged. -/
def Obligations.ClearDisplay : Prop :=
  ∀ s : State,
    IsWordOf 0x00E0 .cls ∧
    Completes .cls s fun t =>
      (∀ c r, Disp.pixel t.disp c r = false) ∧ t.pc = s.pc + 2 ∧ SameV s t ∧ t.I = s.I ∧
      t.stack = s.stack ∧ SameTimers s t ∧ SameMem s t ∧ t.fault = s.fault ∧ SameInputs s t

/-- Blitting the same rows at the same origin twice restores the buffer exactly (R215(b)). -/
def Obligations.BlitTwiceRestores : Prop :=
  ∀ (x y : Nat) (rows : List Byte) (d : Disp), rows.length ≤ 15 →
    (writeSprite x y rows (writeSprite x y rows d).1).1 = d

/-- On a cleared buffer the first blit reports no collision, and the same blit again reports one
exactly when the sprite has a 1 bit (R215(c)). -/
def Obligations.RepeatedBlitCollides : Prop :=
  ∀ (x y : Nat) (rows : List Byte), rows.length ≤ 15 →
    (writeSprite x y rows Disp.clear).2 = false ∧
    ((writeSprite x y rows (writeSprite x y rows Disp.clear).1).2 = true ↔ ∃ b ∈ rows, b ≠ 0)

/-- Origins congruent modulo 64 and 32 give the same blit (R215(d)). -/
def Obligations.CongruentOriginsAgree : Prop :=
  ∀ (x x' y y' : Nat) (rows : List Byte) (d : Disp), x % 64 = x' % 64 → y % 32 = y' % 32 →
    writeSprite x y rows d = writeSprite x' y' rows d

/-- Nothing but the collision flag flows from the display to a program: two states that differ in the
display alone run every instruction to states that differ in the display alone, or after a DXYN in
the display and VF (R216, R31). -/
def Obligations.DisplayReachesOnlyTheFlag : Prop :=
  ∀ (i : Instr) (s : State) (d : Disp), ∃ t u : State,
    exec i s = .next t ∧ exec i { s with disp := d } = .next u ∧
    (∀ r, t.getV r ≠ u.getV r → r = VF ∧ ∃ x y n, i = .drwVxVyN x y n) ∧
    u.I = t.I ∧ u.pc = t.pc ∧ u.stack = t.stack ∧ SameTimers t u ∧ u.mem = t.mem ∧
    u.fault = t.fault ∧ SameInputs t u

/-! ### Keypad -/

/-- FX0A (R231): with a key down it is stored and `pc` advances; with none the step completes and
changes nothing at all. That the handler finds the sample of `key` in `port` is the model's form
(log 1, log 19). -/
def Obligations.WaitForKey : Prop :=
  ∀ (x : RegIdx) (s : State),
    IsWordOf (0xF#4 ++ regField x ++ 0x0A#8) (.ldVxK x) ∧
    (∀ k, s.port.key = some k → Completes (.ldVxK x) s fun t =>
      (∀ r, (t.getV r).toNat = if r = x then k.val else (s.getV r).toNat) ∧
      t.pc = s.pc + 2 ∧ KeepsAllButV s t) ∧
    (s.port.key = none → exec (.ldVxK x) s = .next s)

/-- EX9E, EXA1 (R232, R233): skip when the pressed key equals the whole byte V[x], respectively when
it does not, no key included. The sample of `key` stands in `port` (log 1, log 19). -/
def Obligations.SkipOnKey : Prop :=
  ∀ (x : RegIdx) (s : State),
    IsWordOf (0xE#4 ++ regField x ++ 0x9E#8) (.skpVx x) ∧
    IsWordOf (0xE#4 ++ regField x ++ 0xA1#8) (.sknpVx x) ∧
    ((∃ k, s.port.key = some k ∧ k.val = (s.getV x).toNat) →
      (Completes (.skpVx x) s fun t => t.pc = s.pc + 4 ∧ KeepsAllButPc s t) ∧
      (Completes (.sknpVx x) s fun t => t.pc = s.pc + 2 ∧ KeepsAllButPc s t)) ∧
    ((∀ k, s.port.key = some k → k.val ≠ (s.getV x).toNat) →
      (Completes (.skpVx x) s fun t => t.pc = s.pc + 2 ∧ KeepsAllButPc s t) ∧
      (Completes (.sknpVx x) s fun t => t.pc = s.pc + 4 ∧ KeepsAllButPc s t))

/-! ### The step -/

/-- Where the word at `pc` decodes, a step of a running machine is the handler of that instruction on
the state with the step's inputs sampled, and nothing more (R120). -/
def Obligations.StepRunsTheDecodedInstruction : Prop :=
  ∀ (s : State) (i : Instr), s.running → s.fetchable → decode s.wordAtPc = some i →
    step s = exec i s.sample

/-- The inputs of a step are one draw, taken at its start: the first of the script, else a free draw
that nothing fixes; every step latches exactly it, and `now` never decreases (R33, R180, R120). How
the draws stand in State is the model's own form (log 1, log 19). -/
def Obligations.EveryStepSamplesOneDraw : Prop :=
  ∀ s t : State, step s = .next t →
    t.port.key = s.nextDraw.key ∧ t.port.rnd = s.nextDraw.rnd ∧ s.port.now ≤ t.port.now ∧
    (0 ≤ s.nextDraw.elapsed → t.port.now = s.port.now + s.nextDraw.elapsed) ∧
    (∀ d ds, s.script = d :: ds → s.nextDraw = d ∧ t.script = ds) ∧
    (s.script = [] → s.nextDraw = Config.freeDraw s.drawn ∧ t.script = []) ∧
    t.drawn = s.drawn + 1

/-- The two faults of the fetch and their order: an odd `pc` is MisalignedFetch whatever its size, an
even `pc` from 0x1000 on is AddressOutOfRange; both record the word 0x0000 and change nothing else
(R121, R262, R263, R267, R268). -/
def Obligations.FetchFaultsInOrder : Prop :=
  ∀ s : State, s.running →
    (s.pc.toNat % 2 = 1 → ∃ t, step s = .next t ∧ TookFault s.sample t .misalignedFetch 0) ∧
    (s.pc.toNat % 2 = 0 → 0x1000 ≤ s.pc.toNat →
      ∃ t, step s = .next t ∧ TookFault s.sample t .addressOutOfRange 0)

/-- A fetched word that no definition responds to, or that is 0NNN, takes UnsupportedInstruction with
that word and `pc` (R98, R99, R164, R261). -/
def Obligations.UnsupportedWordFaults : Prop :=
  ∀ s : State, s.running → s.fetchable →
    (decode s.wordAtPc = none ∨ ∃ nnn, decode s.wordAtPc = some (.sysNnn nnn)) →
    ∃ t, step s = .next t ∧ TookFault s.sample t .unsupportedInstruction s.wordAtPc

/-- A running machine always has a next state: no step of it is refused, stuck or without a meaning.
A halted machine has none, and the reason is the recorded cause (R8, R120, R125, R268; that a halted
step is the outcome fault is the form R125 advises, log 3). -/
def Obligations.StepAnswersExactlyWhileRunning : Prop :=
  ∀ s : State,
    (s.running → ∃ t, step s = .next t) ∧
    (s.fault.halted = true → step s = .fault (.halted s.fault.cause))

/-- Faults are precise: a step that halts a running machine changes the fault record and nothing
else, and the record holds a cause, the step's `pc`, and the fetched word, or 0x0000 where the fetch
did not complete (R268, R124, R32). -/
def Obligations.FaultsArePrecise : Prop :=
  ∀ s t : State, s.running → step s = .next t → t.fault.halted = true →
    ∃ c, c ≠ Cause.none ∧
      (s.fetchable → TookFault s.sample t c s.wordAtPc) ∧
      (¬ s.fetchable → TookFault s.sample t c 0)

/-- A step of a running machine faults exactly on the hazards of the list of R292: odd `pc`, `pc` at
0x1000 or beyond, an unsupported word, a call too deep, a return without a call, an address past
0xFFF (R292, R261 to R265). -/
def Obligations.FaultsExactlyOnTheHazards : Prop :=
  ∀ s t : State, s.running → step s = .next t →
    (t.fault.halted = true ↔
      ¬ s.fetchable ∨ decode s.wordAtPc = none ∨
        ∃ i, decode s.wordAtPc = some i ∧ HandlerFaults i s)

/-- No handler can raise more than one kind of fault, and each raises only the kind named for it
(R267). -/
def Obligations.HandlersRaiseOneKindOfFault : Prop :=
  ∀ (i : Instr) (s t : State), s.running → exec i s = .next t → t.fault.halted = true →
    HandlerCause i t.fault.cause

/-- Where `pc` goes, class by class, for every instruction and every completion; a handler that
faults leaves it alone (R122, R268). -/
def Obligations.PcMovesByClass : Prop :=
  ∀ (i : Instr) (s t : State), s.running → exec i s = .next t →
    (t.fault.halted = false → PcAfter i s t) ∧ (t.fault.halted = true → t.pc = s.pc)

/-- Every element of the state is written only by the instructions that the table of R20 names for
it, and no instruction writes an input latch (R20, R24, R27 to R31, R77). -/
def Obligations.EachElementHasItsWriters : Prop :=
  ∀ (i : Instr) (s t : State), exec i s = .next t →
    (∀ r, t.getV r ≠ s.getV r → MayWriteV i r) ∧
    (t.I ≠ s.I → (∃ nnn, i = .ldINnn nnn) ∨ ∃ x, i = .addIVx x ∨ i = .ldFVx x) ∧
    (t.stack ≠ s.stack → (∃ nnn, i = .callNnn nnn) ∨ i = .ret) ∧
    (t.dtTarget ≠ s.dtTarget → ∃ x, i = .ldDtVx x) ∧
    (t.stTarget ≠ s.stTarget → ∃ x, i = .ldStVx x) ∧
    (t.mem ≠ s.mem → ∃ x, i = .ldBVx x ∨ i = .ldMemIVx x) ∧
    (t.disp ≠ s.disp → (∃ x y n, i = .drwVxVyN x y n) ∨ i = .cls) ∧
    (t.fault ≠ s.fault → ∃ c, HandlerCause i c) ∧
    SameInputs s t

/-- An instruction that does not consult the inputs is unaffected by them (R33, R230). -/
def Obligations.UnconsultedInputsHaveNoEffect : Prop :=
  ∀ (i : Instr) (s : State) (p : Port), ¬ ConsultsInputs i →
    ∃ t, exec i s = .next t ∧ exec i { s with port := p } = .next { t with port := p }

/-- No program can observe the sound timer: a step from a state with another `ST.target` gives the
same state but for `ST.target` (R29, R186). -/
def Obligations.SoundTimerIsUnobservable : Prop :=
  ∀ (s t : State) (q : Rat), step s = .next t →
    ∃ q', step { s with stTarget := q } = .next { t with stTarget := q' }

/-- A jump to its own address is a step that changes nothing but the sampled inputs: the conventional
end of a program (R126, R160; C4). -/
def Obligations.SelfJumpStays : Prop :=
  ∀ s : State, s.atSelfJump → step s = .next s.sample ∧ s.sample.atSelfJump

/-! ### Reset and the invariant -/

/-- Reset with a ROM that fits and a `now` the time base can have puts every element at its reset value
and the ROM at 0x200, font before it and fill around it, and `now` is the time base's sample then; a
ROM longer than 3584 bytes is refused (R33, R37, R62 to R65, R180, R290). The font bytes are log 4, the
fill log 5; both are named constants here. That a `now` below 0 or below the latest sample is refused is
the model's choice (log 24). -/
def Obligations.ResetEstablishesTheState : Prop :=
  ∀ (s : State) (rom : List Byte) (now : Rat),
    (Config.romMax < rom.length → s.assertReset rom now = .refused .romTooLong) ∧
    (rom.length ≤ Config.romMax → now < 0 ∨ now < s.port.now →
      s.assertReset rom now = .refused .timeBeforeSample) ∧
    (rom.length ≤ Config.romMax → 0 ≤ now → s.port.now ≤ now → ∃ t, s.assertReset rom now = .next t ∧
      t.port.now = now ∧
      (∀ r, t.getV r = 0) ∧ t.I = 0 ∧ t.pc = 0x200 ∧ t.stack = [] ∧
      t.dtTarget = now ∧ t.stTarget = now ∧ t.delayTimer = 0 ∧ t.soundTimer = 0 ∧
      (∀ c r, Disp.pixel t.disp c r = false) ∧
      t.fault = { halted := false, cause := .none, pc := 0, word := 0 } ∧
      (∀ a < 0x50, some (Memory.read t.mem a) = Config.font[a]?) ∧
      (∀ a, 0x50 ≤ a → a < 0x200 → Memory.read t.mem a = Config.fill) ∧
      (∀ k (h : k < rom.length), Memory.read t.mem (0x200 + k) = rom[k]) ∧
      (∀ a, 0x200 + rom.length ≤ a → Memory.read t.mem a = Config.fill))

/-- The invariant holds in `State.reset` and after every reset that is not refused, from any state; such
a reset leaves the time base not below the latest sample (R33, R36, R37, R180, R290; log 24). -/
def Obligations.ResetSatisfiesInv : Prop :=
  Inv State.reset ∧
  ∀ (s t : State) (rom : List Byte) (now : Rat), s.assertReset rom now = .next t →
    Inv t ∧ s.port.now ≤ t.port.now

/-- The invariant is kept by every step, from every state that satisfies it, reached or not: canonical
memory, at most 16 stack entries, each an even address at most 0xFFE, `pc` at most 0x10FE, timers at
most 255 ahead, a clear or precise fault record (R25, R27, R32, R36, R181, R268). -/
def Obligations.InvKeptByEveryStep : Prop :=
  ∀ s t : State, Inv s → step s = .next t → Inv t

/-- From a state of the invariant no 16-bit addition to `pc` or to a popped entry wraps: after a step
that does not fault, `pc` as a number is exactly 2 more (SEQ), 2 or 4 more (SKIP), 2 more or the same
as the sampled key says (WAIT), or 2 more than the popped entry (00EE) (R25, R122, R163, R231). -/
def Obligations.PcNeverWraps : Prop :=
  ∀ (s t : State) (i : Instr), Inv s → step s = .next t → t.fault.halted = false →
    decode s.wordAtPc = some i →
    (i.pcClass = .seq → t.pc.toNat = s.pc.toNat + 2) ∧
    (i.pcClass = .skip → t.pc.toNat = s.pc.toNat + 2 ∨ t.pc.toNat = s.pc.toNat + 4) ∧
    (i.pcClass = .wait →
      t.pc.toNat = if t.port.key = none then s.pc.toNat else s.pc.toNat + 2) ∧
    (i = .ret → ∀ v rest, s.stack = v :: rest → t.pc.toNat = v.toNat + 2)

/-- In every state of the invariant the delay and sound timers read 0 .. 255, so an 8-bit register
loses nothing (R181, R187). -/
def Obligations.TimersReadAByte : Prop :=
  ∀ s : State, Inv s →
    0 ≤ s.delayTimer ∧ s.delayTimer ≤ 255 ∧ 0 ≤ s.soundTimer ∧ s.soundTimer ≤ 255
end

