-- ==== Sys2Proof/Laws/State.lean ====
section
/-! SUPPORT. One lemma per field of the state per update, so that no later proof unfolds an update. -/

namespace Sys2Proof.Machine

/-- The width of `pc` in sums taken as numbers (R25). -/
@[simp] theorem two_pow_pcBits : 2 ^ Config.pcBits = 65536 := rfl

variable (s : State)

/-! ### setV -/

@[simp] theorem State.setV_V (r : RegIdx) (b : Byte) : (s.setV r b).V = s.V.set r b := rfl
@[simp] theorem State.setV_I (r : RegIdx) (b : Byte) : (s.setV r b).I = s.I := rfl
@[simp] theorem State.setV_pc (r : RegIdx) (b : Byte) : (s.setV r b).pc = s.pc := rfl
@[simp] theorem State.setV_stack (r : RegIdx) (b : Byte) : (s.setV r b).stack = s.stack := rfl
@[simp] theorem State.setV_dtTarget (r : RegIdx) (b : Byte) :
    (s.setV r b).dtTarget = s.dtTarget := rfl
@[simp] theorem State.setV_stTarget (r : RegIdx) (b : Byte) :
    (s.setV r b).stTarget = s.stTarget := rfl
@[simp] theorem State.setV_mem (r : RegIdx) (b : Byte) : (s.setV r b).mem = s.mem := rfl
@[simp] theorem State.setV_disp (r : RegIdx) (b : Byte) : (s.setV r b).disp = s.disp := rfl
@[simp] theorem State.setV_fault (r : RegIdx) (b : Byte) : (s.setV r b).fault = s.fault := rfl
@[simp] theorem State.setV_port (r : RegIdx) (b : Byte) : (s.setV r b).port = s.port := rfl
@[simp] theorem State.setV_script (r : RegIdx) (b : Byte) : (s.setV r b).script = s.script := rfl
@[simp] theorem State.setV_drawn (r : RegIdx) (b : Byte) : (s.setV r b).drawn = s.drawn := rfl

/-! ### setI -/

@[simp] theorem State.setI_V (a : Addr) : (s.setI a).V = s.V := rfl
@[simp] theorem State.setI_I (a : Addr) : (s.setI a).I = a := rfl
@[simp] theorem State.setI_pc (a : Addr) : (s.setI a).pc = s.pc := rfl
@[simp] theorem State.setI_stack (a : Addr) : (s.setI a).stack = s.stack := rfl
@[simp] theorem State.setI_dtTarget (a : Addr) : (s.setI a).dtTarget = s.dtTarget := rfl
@[simp] theorem State.setI_stTarget (a : Addr) : (s.setI a).stTarget = s.stTarget := rfl
@[simp] theorem State.setI_mem (a : Addr) : (s.setI a).mem = s.mem := rfl
@[simp] theorem State.setI_disp (a : Addr) : (s.setI a).disp = s.disp := rfl
@[simp] theorem State.setI_fault (a : Addr) : (s.setI a).fault = s.fault := rfl
@[simp] theorem State.setI_port (a : Addr) : (s.setI a).port = s.port := rfl
@[simp] theorem State.setI_script (a : Addr) : (s.setI a).script = s.script := rfl
@[simp] theorem State.setI_drawn (a : Addr) : (s.setI a).drawn = s.drawn := rfl

/-! ### setPc -/

@[simp] theorem State.setPc_V (a : Pc) : (s.setPc a).V = s.V := rfl
@[simp] theorem State.setPc_I (a : Pc) : (s.setPc a).I = s.I := rfl
@[simp] theorem State.setPc_pc (a : Pc) : (s.setPc a).pc = a := rfl
@[simp] theorem State.setPc_stack (a : Pc) : (s.setPc a).stack = s.stack := rfl
@[simp] theorem State.setPc_dtTarget (a : Pc) : (s.setPc a).dtTarget = s.dtTarget := rfl
@[simp] theorem State.setPc_stTarget (a : Pc) : (s.setPc a).stTarget = s.stTarget := rfl
@[simp] theorem State.setPc_mem (a : Pc) : (s.setPc a).mem = s.mem := rfl
@[simp] theorem State.setPc_disp (a : Pc) : (s.setPc a).disp = s.disp := rfl
@[simp] theorem State.setPc_fault (a : Pc) : (s.setPc a).fault = s.fault := rfl
@[simp] theorem State.setPc_port (a : Pc) : (s.setPc a).port = s.port := rfl
@[simp] theorem State.setPc_script (a : Pc) : (s.setPc a).script = s.script := rfl
@[simp] theorem State.setPc_drawn (a : Pc) : (s.setPc a).drawn = s.drawn := rfl

/-! ### next2 -/

@[simp] theorem State.next2_V : (s.next2).V = s.V := rfl
@[simp] theorem State.next2_I : (s.next2).I = s.I := rfl
@[simp] theorem State.next2_pc : (s.next2).pc = s.pc + 2 := rfl
@[simp] theorem State.next2_stack : (s.next2).stack = s.stack := rfl
@[simp] theorem State.next2_dtTarget : (s.next2).dtTarget = s.dtTarget := rfl
@[simp] theorem State.next2_stTarget : (s.next2).stTarget = s.stTarget := rfl
@[simp] theorem State.next2_mem : (s.next2).mem = s.mem := rfl
@[simp] theorem State.next2_disp : (s.next2).disp = s.disp := rfl
@[simp] theorem State.next2_fault : (s.next2).fault = s.fault := rfl
@[simp] theorem State.next2_port : (s.next2).port = s.port := rfl
@[simp] theorem State.next2_script : (s.next2).script = s.script := rfl
@[simp] theorem State.next2_drawn : (s.next2).drawn = s.drawn := rfl

/-! ### skipIf -/

@[simp] theorem State.skipIf_V (c : Bool) : (s.skipIf c).V = s.V := rfl
@[simp] theorem State.skipIf_I (c : Bool) : (s.skipIf c).I = s.I := rfl
@[simp] theorem State.skipIf_pc (c : Bool) : (s.skipIf c).pc = s.pc + if c then 4 else 2 := rfl
@[simp] theorem State.skipIf_stack (c : Bool) : (s.skipIf c).stack = s.stack := rfl
@[simp] theorem State.skipIf_dtTarget (c : Bool) : (s.skipIf c).dtTarget = s.dtTarget := rfl
@[simp] theorem State.skipIf_stTarget (c : Bool) : (s.skipIf c).stTarget = s.stTarget := rfl
@[simp] theorem State.skipIf_mem (c : Bool) : (s.skipIf c).mem = s.mem := rfl
@[simp] theorem State.skipIf_disp (c : Bool) : (s.skipIf c).disp = s.disp := rfl
@[simp] theorem State.skipIf_fault (c : Bool) : (s.skipIf c).fault = s.fault := rfl
@[simp] theorem State.skipIf_port (c : Bool) : (s.skipIf c).port = s.port := rfl
@[simp] theorem State.skipIf_script (c : Bool) : (s.skipIf c).script = s.script := rfl
@[simp] theorem State.skipIf_drawn (c : Bool) : (s.skipIf c).drawn = s.drawn := rfl

/-! ### setDelay -/

@[simp] theorem State.setDelay_V (v : Byte) : (s.setDelay v).V = s.V := rfl
@[simp] theorem State.setDelay_I (v : Byte) : (s.setDelay v).I = s.I := rfl
@[simp] theorem State.setDelay_pc (v : Byte) : (s.setDelay v).pc = s.pc := rfl
@[simp] theorem State.setDelay_stack (v : Byte) : (s.setDelay v).stack = s.stack := rfl
@[simp] theorem State.setDelay_dtTarget (v : Byte) :
    (s.setDelay v).dtTarget = timerTarget s.port.now v := rfl
@[simp] theorem State.setDelay_stTarget (v : Byte) : (s.setDelay v).stTarget = s.stTarget := rfl
@[simp] theorem State.setDelay_mem (v : Byte) : (s.setDelay v).mem = s.mem := rfl
@[simp] theorem State.setDelay_disp (v : Byte) : (s.setDelay v).disp = s.disp := rfl
@[simp] theorem State.setDelay_fault (v : Byte) : (s.setDelay v).fault = s.fault := rfl
@[simp] theorem State.setDelay_port (v : Byte) : (s.setDelay v).port = s.port := rfl
@[simp] theorem State.setDelay_script (v : Byte) : (s.setDelay v).script = s.script := rfl
@[simp] theorem State.setDelay_drawn (v : Byte) : (s.setDelay v).drawn = s.drawn := rfl

/-! ### setSound -/

@[simp] theorem State.setSound_V (v : Byte) : (s.setSound v).V = s.V := rfl
@[simp] theorem State.setSound_I (v : Byte) : (s.setSound v).I = s.I := rfl
@[simp] theorem State.setSound_pc (v : Byte) : (s.setSound v).pc = s.pc := rfl
@[simp] theorem State.setSound_stack (v : Byte) : (s.setSound v).stack = s.stack := rfl
@[simp] theorem State.setSound_dtTarget (v : Byte) : (s.setSound v).dtTarget = s.dtTarget := rfl
@[simp] theorem State.setSound_stTarget (v : Byte) :
    (s.setSound v).stTarget = timerTarget s.port.now v := rfl
@[simp] theorem State.setSound_mem (v : Byte) : (s.setSound v).mem = s.mem := rfl
@[simp] theorem State.setSound_disp (v : Byte) : (s.setSound v).disp = s.disp := rfl
@[simp] theorem State.setSound_fault (v : Byte) : (s.setSound v).fault = s.fault := rfl
@[simp] theorem State.setSound_port (v : Byte) : (s.setSound v).port = s.port := rfl
@[simp] theorem State.setSound_script (v : Byte) : (s.setSound v).script = s.script := rfl
@[simp] theorem State.setSound_drawn (v : Byte) : (s.setSound v).drawn = s.drawn := rfl

/-! ### setRegs -/

@[simp] theorem State.setRegs_V (bs : List Byte) : (s.setRegs bs).V = loadRegs s.V 0 bs := rfl
@[simp] theorem State.setRegs_I (bs : List Byte) : (s.setRegs bs).I = s.I := rfl
@[simp] theorem State.setRegs_pc (bs : List Byte) : (s.setRegs bs).pc = s.pc := rfl
@[simp] theorem State.setRegs_stack (bs : List Byte) : (s.setRegs bs).stack = s.stack := rfl
@[simp] theorem State.setRegs_dtTarget (bs : List Byte) :
    (s.setRegs bs).dtTarget = s.dtTarget := rfl
@[simp] theorem State.setRegs_stTarget (bs : List Byte) :
    (s.setRegs bs).stTarget = s.stTarget := rfl
@[simp] theorem State.setRegs_mem (bs : List Byte) : (s.setRegs bs).mem = s.mem := rfl
@[simp] theorem State.setRegs_disp (bs : List Byte) : (s.setRegs bs).disp = s.disp := rfl
@[simp] theorem State.setRegs_fault (bs : List Byte) : (s.setRegs bs).fault = s.fault := rfl
@[simp] theorem State.setRegs_port (bs : List Byte) : (s.setRegs bs).port = s.port := rfl
@[simp] theorem State.setRegs_script (bs : List Byte) : (s.setRegs bs).script = s.script := rfl
@[simp] theorem State.setRegs_drawn (bs : List Byte) : (s.setRegs bs).drawn = s.drawn := rfl

/-! ### setResultThenFlag -/

@[simp] theorem State.setResultThenFlag_V (x : RegIdx) (b f : Byte) :
    (s.setResultThenFlag x b f).V = (s.V.set x b).set VF f := rfl
@[simp] theorem State.setResultThenFlag_I (x : RegIdx) (b f : Byte) :
    (s.setResultThenFlag x b f).I = s.I := rfl
@[simp] theorem State.setResultThenFlag_pc (x : RegIdx) (b f : Byte) :
    (s.setResultThenFlag x b f).pc = s.pc := rfl
@[simp] theorem State.setResultThenFlag_stack (x : RegIdx) (b f : Byte) :
    (s.setResultThenFlag x b f).stack = s.stack := rfl
@[simp] theorem State.setResultThenFlag_dtTarget (x : RegIdx) (b f : Byte) :
    (s.setResultThenFlag x b f).dtTarget = s.dtTarget := rfl
@[simp] theorem State.setResultThenFlag_stTarget (x : RegIdx) (b f : Byte) :
    (s.setResultThenFlag x b f).stTarget = s.stTarget := rfl
@[simp] theorem State.setResultThenFlag_mem (x : RegIdx) (b f : Byte) :
    (s.setResultThenFlag x b f).mem = s.mem := rfl
@[simp] theorem State.setResultThenFlag_disp (x : RegIdx) (b f : Byte) :
    (s.setResultThenFlag x b f).disp = s.disp := rfl
@[simp] theorem State.setResultThenFlag_fault (x : RegIdx) (b f : Byte) :
    (s.setResultThenFlag x b f).fault = s.fault := rfl
@[simp] theorem State.setResultThenFlag_port (x : RegIdx) (b f : Byte) :
    (s.setResultThenFlag x b f).port = s.port := rfl
@[simp] theorem State.setResultThenFlag_script (x : RegIdx) (b f : Byte) :
    (s.setResultThenFlag x b f).script = s.script := rfl
@[simp] theorem State.setResultThenFlag_drawn (x : RegIdx) (b f : Byte) :
    (s.setResultThenFlag x b f).drawn = s.drawn := rfl

/-! ### setFlagThenResult -/

@[simp] theorem State.setFlagThenResult_V (x : RegIdx) (b f : Byte) :
    (s.setFlagThenResult x b f).V = (s.V.set VF f).set x b := rfl
@[simp] theorem State.setFlagThenResult_I (x : RegIdx) (b f : Byte) :
    (s.setFlagThenResult x b f).I = s.I := rfl
@[simp] theorem State.setFlagThenResult_pc (x : RegIdx) (b f : Byte) :
    (s.setFlagThenResult x b f).pc = s.pc := rfl
@[simp] theorem State.setFlagThenResult_stack (x : RegIdx) (b f : Byte) :
    (s.setFlagThenResult x b f).stack = s.stack := rfl
@[simp] theorem State.setFlagThenResult_dtTarget (x : RegIdx) (b f : Byte) :
    (s.setFlagThenResult x b f).dtTarget = s.dtTarget := rfl
@[simp] theorem State.setFlagThenResult_stTarget (x : RegIdx) (b f : Byte) :
    (s.setFlagThenResult x b f).stTarget = s.stTarget := rfl
@[simp] theorem State.setFlagThenResult_mem (x : RegIdx) (b f : Byte) :
    (s.setFlagThenResult x b f).mem = s.mem := rfl
@[simp] theorem State.setFlagThenResult_disp (x : RegIdx) (b f : Byte) :
    (s.setFlagThenResult x b f).disp = s.disp := rfl
@[simp] theorem State.setFlagThenResult_fault (x : RegIdx) (b f : Byte) :
    (s.setFlagThenResult x b f).fault = s.fault := rfl
@[simp] theorem State.setFlagThenResult_port (x : RegIdx) (b f : Byte) :
    (s.setFlagThenResult x b f).port = s.port := rfl
@[simp] theorem State.setFlagThenResult_script (x : RegIdx) (b f : Byte) :
    (s.setFlagThenResult x b f).script = s.script := rfl
@[simp] theorem State.setFlagThenResult_drawn (x : RegIdx) (b f : Byte) :
    (s.setFlagThenResult x b f).drawn = s.drawn := rfl

/-! ### draw -/

@[simp] theorem State.draw_V (cx cy : Nat) (rows : List Byte) :
    (s.draw cx cy rows).V = s.V.set VF (flagByte (writeSprite cx cy rows s.disp).2) := rfl
@[simp] theorem State.draw_I (cx cy : Nat) (rows : List Byte) : (s.draw cx cy rows).I = s.I := rfl
@[simp] theorem State.draw_pc (cx cy : Nat) (rows : List Byte) :
    (s.draw cx cy rows).pc = s.pc := rfl
@[simp] theorem State.draw_stack (cx cy : Nat) (rows : List Byte) :
    (s.draw cx cy rows).stack = s.stack := rfl
@[simp] theorem State.draw_dtTarget (cx cy : Nat) (rows : List Byte) :
    (s.draw cx cy rows).dtTarget = s.dtTarget := rfl
@[simp] theorem State.draw_stTarget (cx cy : Nat) (rows : List Byte) :
    (s.draw cx cy rows).stTarget = s.stTarget := rfl
@[simp] theorem State.draw_mem (cx cy : Nat) (rows : List Byte) :
    (s.draw cx cy rows).mem = s.mem := rfl
@[simp] theorem State.draw_disp (cx cy : Nat) (rows : List Byte) :
    (s.draw cx cy rows).disp = (writeSprite cx cy rows s.disp).1 := rfl
@[simp] theorem State.draw_fault (cx cy : Nat) (rows : List Byte) :
    (s.draw cx cy rows).fault = s.fault := rfl
@[simp] theorem State.draw_port (cx cy : Nat) (rows : List Byte) :
    (s.draw cx cy rows).port = s.port := rfl
@[simp] theorem State.draw_script (cx cy : Nat) (rows : List Byte) :
    (s.draw cx cy rows).script = s.script := rfl
@[simp] theorem State.draw_drawn (cx cy : Nat) (rows : List Byte) :
    (s.draw cx cy rows).drawn = s.drawn := rfl

/-! ### raise -/

@[simp] theorem State.raise_V (c : Cause) (w : Word) : (s.raise c w).V = s.V := rfl
@[simp] theorem State.raise_I (c : Cause) (w : Word) : (s.raise c w).I = s.I := rfl
@[simp] theorem State.raise_pc (c : Cause) (w : Word) : (s.raise c w).pc = s.pc := rfl
@[simp] theorem State.raise_stack (c : Cause) (w : Word) : (s.raise c w).stack = s.stack := rfl
@[simp] theorem State.raise_dtTarget (c : Cause) (w : Word) :
    (s.raise c w).dtTarget = s.dtTarget := rfl
@[simp] theorem State.raise_stTarget (c : Cause) (w : Word) :
    (s.raise c w).stTarget = s.stTarget := rfl
@[simp] theorem State.raise_mem (c : Cause) (w : Word) : (s.raise c w).mem = s.mem := rfl
@[simp] theorem State.raise_disp (c : Cause) (w : Word) : (s.raise c w).disp = s.disp := rfl
@[simp] theorem State.raise_fault (c : Cause) (w : Word) :
    (s.raise c w).fault = { halted := true, cause := c, pc := s.pc, word := w } := rfl
@[simp] theorem State.raise_port (c : Cause) (w : Word) : (s.raise c w).port = s.port := rfl
@[simp] theorem State.raise_script (c : Cause) (w : Word) : (s.raise c w).script = s.script := rfl
@[simp] theorem State.raise_drawn (c : Cause) (w : Word) : (s.raise c w).drawn = s.drawn := rfl

/-! ### raiseBy -/

@[simp] theorem State.raiseBy_V (c : Cause) (i : Instr) : (s.raiseBy c i).V = s.V := rfl
@[simp] theorem State.raiseBy_I (c : Cause) (i : Instr) : (s.raiseBy c i).I = s.I := rfl
@[simp] theorem State.raiseBy_pc (c : Cause) (i : Instr) : (s.raiseBy c i).pc = s.pc := rfl
@[simp] theorem State.raiseBy_stack (c : Cause) (i : Instr) : (s.raiseBy c i).stack = s.stack := rfl
@[simp] theorem State.raiseBy_dtTarget (c : Cause) (i : Instr) :
    (s.raiseBy c i).dtTarget = s.dtTarget := rfl
@[simp] theorem State.raiseBy_stTarget (c : Cause) (i : Instr) :
    (s.raiseBy c i).stTarget = s.stTarget := rfl
@[simp] theorem State.raiseBy_mem (c : Cause) (i : Instr) : (s.raiseBy c i).mem = s.mem := rfl
@[simp] theorem State.raiseBy_disp (c : Cause) (i : Instr) : (s.raiseBy c i).disp = s.disp := rfl
@[simp] theorem State.raiseBy_fault (c : Cause) (i : Instr) :
    (s.raiseBy c i).fault = { halted := true, cause := c, pc := s.pc, word := encode i } := rfl
@[simp] theorem State.raiseBy_port (c : Cause) (i : Instr) : (s.raiseBy c i).port = s.port := rfl
@[simp] theorem State.raiseBy_script (c : Cause) (i : Instr) :
    (s.raiseBy c i).script = s.script := rfl
@[simp] theorem State.raiseBy_drawn (c : Cause) (i : Instr) : (s.raiseBy c i).drawn = s.drawn := rfl

/-! ### sample -/

@[simp] theorem State.sample_V : (s.sample).V = s.V := rfl
@[simp] theorem State.sample_I : (s.sample).I = s.I := rfl
@[simp] theorem State.sample_pc : (s.sample).pc = s.pc := rfl
@[simp] theorem State.sample_stack : (s.sample).stack = s.stack := rfl
@[simp] theorem State.sample_dtTarget : (s.sample).dtTarget = s.dtTarget := rfl
@[simp] theorem State.sample_stTarget : (s.sample).stTarget = s.stTarget := rfl
@[simp] theorem State.sample_mem : (s.sample).mem = s.mem := rfl
@[simp] theorem State.sample_disp : (s.sample).disp = s.disp := rfl
@[simp] theorem State.sample_fault : (s.sample).fault = s.fault := rfl
@[simp] theorem State.sample_port :
    (s.sample).port = { now := s.port.now + advanceOf s.nextDraw, key := s.nextDraw.key, rnd := s.nextDraw.rnd } := rfl
@[simp] theorem State.sample_script : (s.sample).script = s.script.tail := rfl
@[simp] theorem State.sample_drawn : (s.sample).drawn = s.drawn + 1 := rfl

/-! ### Reading a register after an update -/

/-- Reading a register after writing one: the law of the register file (R21, R22). -/
@[simp] theorem State.getV_setV (r q : RegIdx) (b : Byte) :
    (s.setV r b).getV q = if q = r then b else s.getV q := by
  by_cases h : q = r
  · subst h; simp [State.getV, State.setV]
  · have h2 : r.val ≠ q.val := fun e => h (Fin.ext e.symm)
    simp [State.getV, State.setV, Vector.getElem_set_ne, h, h2]

@[simp] theorem State.getV_setI (a : Addr) (q : RegIdx) : (s.setI a).getV q = s.getV q := rfl
@[simp] theorem State.getV_setPc (a : Pc) (q : RegIdx) : (s.setPc a).getV q = s.getV q := rfl
@[simp] theorem State.getV_next2 (q : RegIdx) : (s.next2).getV q = s.getV q := rfl
@[simp] theorem State.getV_skipIf (c : Bool) (q : RegIdx) : (s.skipIf c).getV q = s.getV q := rfl
@[simp] theorem State.getV_setDelay (v : Byte) (q : RegIdx) : (s.setDelay v).getV q = s.getV q := rfl
@[simp] theorem State.getV_setSound (v : Byte) (q : RegIdx) : (s.setSound v).getV q = s.getV q := rfl
@[simp] theorem State.getV_raise (c : Cause) (w : Word) (q : RegIdx) : (s.raise c w).getV q = s.getV q := rfl
@[simp] theorem State.getV_raiseBy (c : Cause) (i : Instr) (q : RegIdx) : (s.raiseBy c i).getV q = s.getV q := rfl
@[simp] theorem State.getV_sample (q : RegIdx) : (s.sample).getV q = s.getV q := rfl

/-- Result first, flag second: VF ends holding the flag (R141(a)). -/
@[simp] theorem State.getV_setResultThenFlag (x q : RegIdx) (b f : Byte) :
    (s.setResultThenFlag x b f).getV q = if q = VF then f else if q = x then b else s.getV q := by
  simp [State.setResultThenFlag]

/-- Flag first, result second: with X = F, VF ends holding the result (R141(b)). -/
@[simp] theorem State.getV_setFlagThenResult (x q : RegIdx) (b f : Byte) :
    (s.setFlagThenResult x b f).getV q = if q = x then b else if q = VF then f else s.getV q := by
  simp [State.setFlagThenResult]

/-- Drawing writes VF alone among the registers (R213, R141(c)). -/
@[simp] theorem State.getV_draw (cx cy : Nat) (rows : List Byte) (q : RegIdx) :
    (s.draw cx cy rows).getV q =
      if q = VF then flagByte (writeSprite cx cy rows s.disp).2 else s.getV q := by
  simp only [State.draw, State.getV_setV]
  rfl

end Sys2Proof.Machine
end

