-- ==== Sys2Proof/Laws/Memory.lean ====
section
/-! SUPPORT. The laws of memory: a read after a write, the canonical form, and what each access
primitive can do (spec/20_memory.md R61, R69). -/

namespace Sys2Proof.Machine

@[simp] theorem Memory.read_nil (a : Nat) : Memory.read [] a = Memory.unlisted a := rfl

@[simp] theorem Memory.read_cons (c : Host.Cell) (m : Memory) (a : Nat) :
    Memory.read (c :: m) a = if c.1 = a then c.2 else Memory.read m a := rfl

theorem Memory.read_insert (m : Memory) (a k : Nat) (b : Byte) :
    Memory.read (Memory.insert m a b) k = if k = a then b else Memory.read m k := by
  induction m with
  | nil => simp only [Memory.insert, Memory.read_cons, eq_comm]
  | cons c rest ih =>
    simp only [Memory.insert]
    split_ifs <;> simp only [Memory.read_cons, ih] <;> split_ifs <;> first | rfl | omega

theorem Memory.read_filter (m : Memory) (a k : Nat) :
    Memory.read (m.filter fun c => c.1 != a) k =
      if k = a then Memory.unlisted k else Memory.read m k := by
  induction m with
  | nil => simp
  | cons c rest ih =>
    by_cases h : c.1 = a <;> simp only [List.filter_cons, h, bne_self_eq_false, Bool.false_eq_true,
      if_false, bne_iff_ne, ne_eq, not_false_eq_true, if_true, Memory.read_cons, ih] <;>
      split_ifs <;> first | rfl | omega

/-- Reading a byte after writing one (R69): the law of the memory array. -/
@[simp] theorem Memory.read_write (m : Memory) (a k : Nat) (b : Byte) :
    Memory.read (Memory.write m a b) k = if k = a then b else Memory.read m k := by
  unfold Memory.write
  split_ifs with h1 h2 <;> simp [Memory.read_filter, Memory.read_insert, *]

/-! ### The canonical form -/

theorem Memory.mem_insert {m : Memory} {a : Nat} {b : Byte} {c : Host.Cell}
    (h : c ∈ Memory.insert m a b) : c = (a, b) ∨ c ∈ m := by
  induction m with
  | nil => simpa [Memory.insert] using h
  | cons d rest ih =>
    simp only [Memory.insert] at h
    split_ifs at h <;> simp only [List.mem_cons] at h ⊢ <;> tauto

theorem Memory.rising_insert {m : Memory} (a : Nat) (b : Byte)
    (h : m.Pairwise fun c d => c.1 < d.1) : (Memory.insert m a b).Pairwise fun c d => c.1 < d.1 := by
  induction m with
  | nil => simp [Memory.insert]
  | cons c rest ih =>
    obtain ⟨h1, h2⟩ := List.pairwise_cons.mp h
    simp only [Memory.insert]
    split_ifs with hlt heq
    · refine List.pairwise_cons.mpr ⟨fun d hd => ?_, h⟩
      rcases List.mem_cons.mp hd with rfl | hd
      · exact hlt
      · exact hlt.trans (h1 d hd)
    · exact List.pairwise_cons.mpr ⟨fun d hd => heq ▸ h1 d hd, h2⟩
    · refine List.pairwise_cons.mpr ⟨fun d hd => ?_, ih h2⟩
      rcases Memory.mem_insert hd with rfl | hd
      · exact lt_of_le_of_ne (not_lt.mp hlt) (fun e => heq e.symm)
      · exact h1 d hd

theorem Memory.wf_iff (m : Memory) : Memory.wf m = true ↔
    (m.Pairwise fun c d => c.1 < d.1) ∧
      ∀ c ∈ m, c.1 < Config.memSize ∧ c.2 ≠ Memory.unlisted c.1 := by
  simp [Memory.wf]

/-- The memory after reset is in canonical form. -/
@[simp] theorem Memory.wf_nil : Memory.wf [] = true := rfl

/-- A write to an address that exists keeps the canonical form. -/
theorem Memory.wf_write {m : Memory} {a : Nat} (b : Byte) (h : Memory.wf m = true)
    (ha : a < Config.memSize) : Memory.wf (Memory.write m a b) = true := by
  rw [Memory.wf_iff] at h ⊢
  unfold Memory.write
  split_ifs with hb
  · exact ⟨h.1.filter _, fun c hc => h.2 c (List.mem_of_mem_filter hc)⟩
  · refine ⟨Memory.rising_insert a b h.1, fun c hc => ?_⟩
    rcases Memory.mem_insert hc with rfl | hc
    · exact ⟨ha, hb⟩
    · exact h.2 c hc

/-- Storing bytes inside the address space keeps the canonical form. -/
theorem Memory.wf_writeBytes {m : Memory} {a : Nat} {bs : List Byte} (h : Memory.wf m = true)
    (ha : bs = [] ∨ a + bs.length ≤ Config.memSize) : Memory.wf (Memory.writeBytes m a bs) = true := by
  induction bs generalizing m a with
  | nil => exact h
  | cons b bs ih =>
    simp only [reduceCtorEq, List.length_cons, false_or] at ha
    exact ih (Memory.wf_write b h (by omega)) (.inr (by omega))

/-! ### Runs of bytes -/

/-- Reading a byte after storing a run of bytes (R61, R67): byte k of the run at `a + k`, every
other address as before. -/
theorem Memory.read_writeBytes (m : Memory) (a k : Nat) (bs : List Byte) :
    Memory.read (Memory.writeBytes m a bs) k =
      if h : a ≤ k ∧ k < a + bs.length then bs[k - a]'(by omega) else Memory.read m k := by
  induction bs generalizing m a with
  | nil => rw [dif_neg (by simp)]; rfl
  | cons b bs ih =>
    simp only [Memory.writeBytes, ih, Memory.read_write, List.length_cons]
    by_cases h : a + 1 ≤ k ∧ k < a + 1 + bs.length
    · rw [dif_pos h, dif_pos (by omega)]
      simp only [show k - a = k - (a + 1) + 1 by omega, List.getElem_cons_succ]
    · rw [dif_neg h]
      by_cases hk : k = a
      · subst hk; simp
      · rw [dif_neg (by omega), if_neg hk]

@[simp] theorem Memory.length_readBytes (m : Memory) (a n : Nat) :
    (Memory.readBytes m a n).length = n := by
  induction n generalizing a with
  | zero => rfl
  | succ n ih => simp [Memory.readBytes, ih]

/-- Byte k of a run read at `a` is the byte at `a + k` (R61). -/
@[simp] theorem Memory.getElem_readBytes (m : Memory) (a n k : Nat)
    (h : k < (Memory.readBytes m a n).length) :
    (Memory.readBytes m a n)[k] = Memory.read m (a + k) := by
  induction n generalizing a k with
  | zero => simp at h
  | succ n ih =>
    cases k with
    | zero => rfl
    | succ k => simp only [Memory.readBytes, List.getElem_cons_succ, ih]; congr 1; omega

/-! ### The checked primitives -/

/-- Everything `memRead` can do (R61). -/
theorem State.memRead_spec (s : State) (a n : Nat) :
    (s.memRead a n = some (s.mem.readBytes a n) ∧ (n = 0 ∨ a + n ≤ Config.memSize)) ∨
      (s.memRead a n = none ∧ 0 < n ∧ Config.memSize < a + n) := by
  unfold State.memRead inSpace
  by_cases h : n = 0 ∨ a + n ≤ Config.memSize
  · left; refine ⟨?_, h⟩; simp [h]
  · right; refine ⟨?_, by omega⟩; simp only [not_or, not_le] at h; simp [h]

/-- Everything `memWrite` can do (R61): nothing is written unless the whole range exists. -/
theorem State.memWrite_spec (s : State) (a : Nat) (bs : List Byte) :
    (s.memWrite a bs = some { s with mem := s.mem.writeBytes a bs } ∧
        (bs = [] ∨ a + bs.length ≤ Config.memSize)) ∨
      (s.memWrite a bs = none ∧ bs ≠ [] ∧ Config.memSize < a + bs.length) := by
  unfold State.memWrite inSpace
  by_cases h : bs.length = 0 ∨ a + bs.length ≤ Config.memSize
  · left; refine ⟨if_pos (by simpa only [Bool.or_eq_true, beq_iff_eq, decide_eq_true_eq] using h),
      by simpa only [List.length_eq_zero_iff] using h⟩
  · right; refine ⟨if_neg (by simpa only [Bool.or_eq_true, beq_iff_eq, decide_eq_true_eq] using h),
      by simpa only [List.length_eq_zero_iff, not_or, not_le] using h⟩

end Sys2Proof.Machine
end

