-- ==== Sys2Proof/Laws/Blitter.lean ====
section
/-! SUPPORT. What the blitter can do to a pixel and to the collision flag (spec/46_display.md R211). -/

namespace Sys2Proof.Machine

/-- A pixel after a toggle (R211). -/
@[simp] theorem Disp.pixel_toggle (d : Disp) (c p : Fin 64) (r q : Fin 32) :
    (Disp.toggle d c r).pixel p q = if p = c ∧ q = r then !d.pixel p q else d.pixel p q := by
  by_cases hp : p = c
  · subst hp
    by_cases hq : q = r
    · subst hq; simp [Disp.pixel, Disp.toggle]
    · have h2 : r.val ≠ q.val := fun e => hq (Fin.ext e.symm)
      simp [Disp.pixel, Disp.toggle, Vector.getElem_set_ne, hq, h2]
  · have h2 : c.val ≠ p.val := fun e => hp (Fin.ext e.symm)
    simp [Disp.pixel, Disp.toggle, Vector.getElem_set_ne, hp, h2]

@[simp] theorem Disp.pixel_clear (c : Fin 64) (r : Fin 32) : Disp.pixel Disp.clear c r = false := by
  simp [Disp.pixel, Disp.clear]

/-- Two buffers with the same pixels are the same buffer. -/
theorem Disp.ext_pixel {d e : Disp} (h : ∀ c r, d.pixel c r = e.pixel c r) : d = e := by
  apply Vector.ext; intro c hc
  apply Vector.ext; intro r hr
  exact h ⟨c, hc⟩ ⟨r, hr⟩

/-- Everything one sprite bit can do (R211). -/
theorem blitBit_spec (c : Fin 64) (r : Fin 32) (bit : Bool) (acc : Disp × Bool) :
    (∀ p q, (blitBit c r bit acc).1.pixel p q =
      (acc.1.pixel p q ^^ (bit && decide (p = c ∧ q = r)))) ∧
    (blitBit c r bit acc).2 = (acc.2 || (bit && acc.1.pixel c r)) := by
  cases bit
  · simp [blitBit]
  · refine ⟨fun p q => ?_, by simp [blitBit]⟩
    by_cases h : p = c ∧ q = r <;> simp [blitBit, h]

/-! ### A blit as one run over its cells -/

/-- The cells of one sprite row: display column, display row, sprite bit. -/
def rowCells (x : Nat) (r : Fin 32) (row : Byte) : List (Fin 64 × Fin 32 × Bool) :=
  [0, 1, 2, 3, 4, 5, 6, 7].map fun i => (blitColumn x i, r, spriteBit row i)

/-- The cells of the rows of a sprite from sprite row `j` on. -/
def spriteCells (x y j : Nat) : List Byte → List (Fin 64 × Fin 32 × Bool)
  | [] => []
  | row :: rest => rowCells x (blitRow y j) row ++ spriteCells x y (j + 1) rest

/-- Blit a list of cells in order. -/
def blitCells (cells : List (Fin 64 × Fin 32 × Bool)) (acc : Disp × Bool) : Disp × Bool :=
  cells.foldl (fun a c => blitBit c.1 c.2.1 c.2.2 a) acc

theorem blitRows_eq_cells (x y j : Nat) (rows : List Byte) (acc : Disp × Bool) :
    blitRows x y j rows acc = blitCells (spriteCells x y j rows) acc := by
  induction rows generalizing j acc with
  | nil => rfl
  | cons row rest ih =>
    rw [blitRows, ih, spriteCells, blitCells, blitCells, List.foldl_append]
    rfl

/-- Where every cell lands on a pixel of its own, the pixels under a 1 toggle, and the blit collides
where one of those was on before it (R215(a)). -/
theorem blitCells_spec (cells : List (Fin 64 × Fin 32 × Bool)) (acc : Disp × Bool)
    (h : cells.Pairwise fun c d => (c.1, c.2.1) ≠ (d.1, d.2.1)) :
    (∀ p q, (blitCells cells acc).1.pixel p q =
      (acc.1.pixel p q ^^ decide ((p, q, true) ∈ cells))) ∧
    (blitCells cells acc).2 = (acc.2 || cells.any fun c => c.2.2 && acc.1.pixel c.1 c.2.1) := by
  induction cells generalizing acc with
  | nil => simp [blitCells]
  | cons c rest ih =>
    obtain ⟨h1, h2⟩ := List.pairwise_cons.mp h
    obtain ⟨hp, hc⟩ := ih (blitBit c.1 c.2.1 c.2.2 acc) h2
    obtain ⟨bp, bc⟩ := blitBit_spec c.1 c.2.1 c.2.2 acc
    have step : blitCells (c :: rest) acc = blitCells rest (blitBit c.1 c.2.1 c.2.2 acc) := rfl
    rw [step]
    constructor
    · intro p q
      rw [hp, bp]
      by_cases hpq : p = c.1 ∧ q = c.2.1
      · obtain ⟨rfl, rfl⟩ := hpq
        have hn : (c.1, c.2.1, true) ∉ rest := fun hm => h1 _ hm rfl
        obtain ⟨a, b, d⟩ := c
        cases d <;> simp_all
      · have hn : (p, q, true) ≠ c := by rintro rfl; exact hpq ⟨rfl, rfl⟩
        simp [hpq, hn]
    · have same : ∀ d ∈ rest, (blitBit c.1 c.2.1 c.2.2 acc).1.pixel d.1 d.2.1 = acc.1.pixel d.1 d.2.1 :=
        fun d hd => by
          rw [bp]
          have hne : ¬(d.1 = c.1 ∧ d.2.1 = c.2.1) := fun e => h1 d hd (by rw [e.1, e.2])
          simp [hne]
      have hany : (rest.any fun d => d.2.2 && (blitBit c.1 c.2.1 c.2.2 acc).1.pixel d.1 d.2.1) =
          rest.any fun d => d.2.2 && acc.1.pixel d.1 d.2.1 := by
        rw [Bool.eq_iff_iff, List.any_eq_true, List.any_eq_true]
        exact exists_congr fun d => and_congr_right fun hd => by rw [same d hd]
      rw [hc, bc, hany, List.any_cons, Bool.or_assoc]

theorem mem_rowCells (x : Nat) (r : Fin 32) (row : Byte) (c : Fin 64 × Fin 32 × Bool) :
    c ∈ rowCells x r row ↔ ∃ i < 8, c = (blitColumn x i, r, spriteBit row i) := by
  have h : [0, 1, 2, 3, 4, 5, 6, 7] = List.range 8 := rfl
  simp only [rowCells, h, List.mem_map, List.mem_range]
  constructor <;> rintro ⟨i, hi, e⟩ <;> exact ⟨i, hi, e.symm⟩

/-- The cells of a sprite: bit `7 − i` of row byte `k` at column `(x + i) mod 64`, row
`(y + j + k) mod 32` (R211). -/
theorem mem_spriteCells (x y j : Nat) (rows : List Byte) (c : Fin 64 × Fin 32 × Bool) :
    c ∈ spriteCells x y j rows ↔ ∃ k, ∃ hk : k < rows.length, ∃ i < 8,
      c = (blitColumn x i, blitRow y (j + k), spriteBit rows[k] i) := by
  induction rows generalizing j with
  | nil => simp [spriteCells]
  | cons row rest ih =>
    rw [spriteCells, List.mem_append, mem_rowCells, ih]
    constructor
    · rintro (⟨i, hi, e⟩ | ⟨k, hk, i, hi, e⟩)
      · exact ⟨0, by simp, i, hi, e⟩
      · exact ⟨k + 1, by simpa using hk, i, hi, by simpa [Nat.add_assoc, Nat.add_comm 1] using e⟩
    · rintro ⟨k, hk, i, hi, e⟩
      cases k with
      | zero => exact .inl ⟨i, hi, e⟩
      | succ k =>
        exact .inr ⟨k, by simpa using hk, i, hi, by simpa [Nat.add_assoc, Nat.add_comm 1] using e⟩

theorem spriteCells_apart (x y j : Nat) (rows : List Byte) (h : rows.length ≤ 32) :
    (spriteCells x y j rows).Pairwise fun c d => (c.1, c.2.1) ≠ (d.1, d.2.1) := by
  induction rows generalizing j with
  | nil => exact List.Pairwise.nil
  | cons row rest ih =>
    rw [spriteCells, List.pairwise_append]
    refine ⟨?_, ih (j + 1) (by simp at h; omega), ?_⟩
    · refine List.pairwise_map.mpr ((show List.Pairwise (fun a b => a < b ∧ b < 8)
        [0, 1, 2, 3, 4, 5, 6, 7] by decide).imp fun {a b} hab e => ?_)
      have := congrArg (fun p => p.1.val) e
      simp only [blitColumn, Fin.val_ofNat] at this
      omega
    · intro c hc d hd e
      obtain ⟨i, -, rfl⟩ := (mem_rowCells _ _ _ _).mp hc
      obtain ⟨k, hk, i', -, rfl⟩ := (mem_spriteCells _ _ _ _ _).mp hd
      have := congrArg (fun p => p.2.val) e
      simp only [blitRow, Fin.val_ofNat] at this
      simp only [List.length_cons] at h
      omega

/-- Everything the blit of at most 32 rows can do (R211): a pixel toggles exactly where a 1 bit of
the sprite lands on it, and the blit collides exactly where one such pixel was on before it. -/
theorem writeSprite_spec (x y : Nat) (rows : List Byte) (d : Disp) (h : rows.length ≤ 32) :
    (∀ p q, (writeSprite x y rows d).1.pixel p q =
      (d.pixel p q ^^ decide ((p, q, true) ∈ spriteCells x y 0 rows))) ∧
    ((writeSprite x y rows d).2 = true ↔
      ∃ p q, (p, q, true) ∈ spriteCells x y 0 rows ∧ d.pixel p q = true) := by
  obtain ⟨h1, h2⟩ := blitCells_spec (spriteCells x y 0 rows) (d, false) (spriteCells_apart x y 0 rows h)
  rw [writeSprite, blitRows_eq_cells]
  refine ⟨h1, ?_⟩
  rw [h2]
  simp only [Bool.false_or, List.any_eq_true, Bool.and_eq_true]
  constructor
  · rintro ⟨⟨p, q, b⟩, hm, hb, hp⟩
    simp only at hb hp
    subst hb
    exact ⟨p, q, hm, hp⟩
  · rintro ⟨p, q, hm, hp⟩
    exact ⟨_, hm, rfl, hp⟩

end Sys2Proof.Machine
end

