-- ==== Sys2Proof/Laws/Decode.lean ====
section
/-! SUPPORT. The fields of an encoded word, matching by fields, and the compiled patterns of the
dispatch table (spec/30_encoding.md R91 to R96). -/

namespace Sys2Proof

/-! ### Fields of concatenations -/

theorem extract_append_top {n m : Nat} (a : BitVec n) (b : BitVec m) :
    (a ++ b).extractLsb' m n = a := by
  ext i hi
  simp [BitVec.getLsbD_append, hi]

theorem extract_append_low {n m : Nat} (a : BitVec n) (b : BitVec m) :
    (a ++ b).extractLsb' 0 m = b := by
  ext i hi
  simp [BitVec.getLsbD_append, hi]

theorem extract_append_above {n m : Nat} (a : BitVec n) (b : BitVec m) (k l : Nat) :
    (a ++ b).extractLsb' (m + k) l = a.extractLsb' k l := by
  ext i hi
  simp [BitVec.getLsbD_append, Nat.add_assoc]

@[simp] theorem toFin_regField (x : RegIdx) : (regField x).toFin = x := rfl

@[simp] theorem regField_toFin (b : Nibble) : regField b.toFin = b := rfl

/-! ### Fields of encoded words (R92) -/

@[simp] theorem encodeNNN_family (f : Nibble) (nnn : Addr) :
    (encodeNNN f nnn).extractLsb' 12 4 = f := extract_append_top f nnn

@[simp] theorem encodeNNN_nnn (f : Nibble) (nnn : Addr) :
    (encodeNNN f nnn).extractLsb' 0 12 = nnn := extract_append_low f nnn

@[simp] theorem encodeXNN_family (f : Nibble) (x : RegIdx) (nn : Byte) :
    (encodeXNN f x nn).extractLsb' 12 4 = f :=
  (extract_append_above (f ++ regField x) nn 4 4).trans (extract_append_top f (regField x))

@[simp] theorem encodeXNN_x (f : Nibble) (x : RegIdx) (nn : Byte) :
    (encodeXNN f x nn).extractLsb' 8 4 = regField x :=
  (extract_append_above (f ++ regField x) nn 0 4).trans (extract_append_low f (regField x))

@[simp] theorem encodeXNN_nn (f : Nibble) (x : RegIdx) (nn : Byte) :
    (encodeXNN f x nn).extractLsb' 0 8 = nn := extract_append_low (f ++ regField x) nn

theorem encodeX_eq (f : Nibble) (x : RegIdx) (low : Byte) : encodeX f x low = encodeXNN f x low := rfl

theorem encodeXY_eq (f : Nibble) (x y : RegIdx) (last : Nibble) :
    encodeXY f x y last = encodeXYN f x y last := rfl

@[simp] theorem encodeXYN_family (f : Nibble) (x y : RegIdx) (n : Nibble) :
    (encodeXYN f x y n).extractLsb' 12 4 = f :=
  (extract_append_above (f ++ regField x ++ regField y) n 8 4).trans
    ((extract_append_above (f ++ regField x) (regField y) 4 4).trans
      (extract_append_top f (regField x)))

@[simp] theorem encodeXYN_x (f : Nibble) (x y : RegIdx) (n : Nibble) :
    (encodeXYN f x y n).extractLsb' 8 4 = regField x :=
  (extract_append_above (f ++ regField x ++ regField y) n 4 4).trans
    ((extract_append_above (f ++ regField x) (regField y) 0 4).trans
      (extract_append_low f (regField x)))

@[simp] theorem encodeXYN_y (f : Nibble) (x y : RegIdx) (n : Nibble) :
    (encodeXYN f x y n).extractLsb' 4 4 = regField y :=
  (extract_append_above (f ++ regField x ++ regField y) n 0 4).trans
    (extract_append_low (f ++ regField x) (regField y))

@[simp] theorem encodeXYN_n (f : Nibble) (x y : RegIdx) (n : Nibble) :
    (encodeXYN f x y n).extractLsb' 0 4 = n := extract_append_low (f ++ regField x ++ regField y) n

/-! ### Matching by fields (R95) -/

theorem getLsbD_of_extract {v w : Word} {k l i : Nat} (h : v.extractLsb' k l = w.extractLsb' k l)
    (hk : k ≤ i) (hi : i < k + l) : v.getLsbD i = w.getLsbD i := by
  have e := congrArg (fun b => b.getLsbD (i - k)) h
  simpa [show i - k < l by omega, show k + (i - k) = i by omega] using e

theorem and_ones_nibble (b : Nibble) : b &&& 15#4 = b := BitVec.and_allOnes

theorem and_ones_byte (b : Byte) : b &&& 255#8 = b := BitVec.and_allOnes

/-- A word is its family and its `nnn` (R91). -/
theorem word_ext {v w : Word} (h1 : v.extractLsb' 12 4 = w.extractLsb' 12 4)
    (h2 : v.extractLsb' 0 12 = w.extractLsb' 0 12) : v = w := by
  apply BitVec.eq_of_getLsbD_eq
  intro i hi
  by_cases h : i < 12
  · exact getLsbD_of_extract h2 (by omega) (by omega)
  · exact getLsbD_of_extract h1 (by omega) (by omega)

/-- A word is its family, its `x` and its `nn` (R91). -/
theorem word_ext_x {v w : Word} (h1 : v.extractLsb' 12 4 = w.extractLsb' 12 4)
    (h2 : v.extractLsb' 8 4 = w.extractLsb' 8 4) (h3 : v.extractLsb' 0 8 = w.extractLsb' 0 8) :
    v = w := by
  apply BitVec.eq_of_getLsbD_eq
  intro i hi
  by_cases h : i < 8
  · exact getLsbD_of_extract h3 (by omega) (by omega)
  by_cases h' : i < 12
  · exact getLsbD_of_extract h2 (by omega) (by omega)
  · exact getLsbD_of_extract h1 (by omega) (by omega)

/-- A word is its family, its `x`, its `y` and its `n` (R91). -/
theorem word_ext_xy {v w : Word} (h1 : v.extractLsb' 12 4 = w.extractLsb' 12 4)
    (h2 : v.extractLsb' 8 4 = w.extractLsb' 8 4) (h3 : v.extractLsb' 4 4 = w.extractLsb' 4 4)
    (h4 : v.extractLsb' 0 4 = w.extractLsb' 0 4) : v = w := by
  apply BitVec.eq_of_getLsbD_eq
  intro i hi
  by_cases h : i < 4
  · exact getLsbD_of_extract h4 (by omega) (by omega)
  by_cases h' : i < 8
  · exact getLsbD_of_extract h3 (by omega) (by omega)
  by_cases h' : i < 12
  · exact getLsbD_of_extract h2 (by omega) (by omega)
  · exact getLsbD_of_extract h1 (by omega) (by omega)

/-- Matching under the mask 0xF000 compares the family (R92, R95). -/
theorem respondsTo_F000 (m w : Word) (hm : m &&& 0xF000#16 = m) :
    respondsTo m 0xF000#16 w = (w.extractLsb' 12 4 == m.extractLsb' 12 4) := by
  rw [respondsTo, Bool.eq_iff_iff, beq_iff_eq, beq_iff_eq]
  constructor
  · rintro rfl
    simp [BitVec.extractLsb'_and, and_ones_nibble]
  · intro h
    rw [← hm]
    apply word_ext <;> simp [BitVec.extractLsb'_and, h]

/-- Matching under the mask 0xF00F compares the family and the last nibble (R92, R95). -/
theorem respondsTo_F00F (m w : Word) (hm : m &&& 0xF00F#16 = m) :
    respondsTo m 0xF00F#16 w =
      (w.extractLsb' 12 4 == m.extractLsb' 12 4 && w.extractLsb' 0 4 == m.extractLsb' 0 4) := by
  rw [respondsTo, Bool.eq_iff_iff, Bool.and_eq_true, beq_iff_eq, beq_iff_eq, beq_iff_eq]
  constructor
  · rintro rfl
    simp [BitVec.extractLsb'_and, and_ones_nibble]
  · rintro ⟨h1, h2⟩
    rw [← hm]
    apply word_ext_xy <;> simp [BitVec.extractLsb'_and, h1, h2]

/-- Matching under the mask 0xF0FF compares the family and the low byte (R92, R95). -/
theorem respondsTo_F0FF (m w : Word) (hm : m &&& 0xF0FF#16 = m) :
    respondsTo m 0xF0FF#16 w =
      (w.extractLsb' 12 4 == m.extractLsb' 12 4 && w.extractLsb' 0 8 == m.extractLsb' 0 8) := by
  rw [respondsTo, Bool.eq_iff_iff, Bool.and_eq_true, beq_iff_eq, beq_iff_eq, beq_iff_eq]
  constructor
  · rintro rfl
    simp [BitVec.extractLsb'_and, and_ones_nibble, and_ones_byte]
  · rintro ⟨h1, h2⟩
    rw [← hm]
    apply word_ext_x <;> simp [BitVec.extractLsb'_and, h1, h2]

/-- Matching under the mask 0xFFFF compares the whole word (R92, R95). -/
theorem respondsTo_FFFF (m w : Word) : respondsTo m 0xFFFF#16 w =
    (w.extractLsb' 12 4 == m.extractLsb' 12 4 && w.extractLsb' 0 12 == m.extractLsb' 0 12) := by
  have h : w &&& 0xFFFF#16 = w := BitVec.and_allOnes
  rw [respondsTo, h, Bool.eq_iff_iff, Bool.and_eq_true, beq_iff_eq, beq_iff_eq, beq_iff_eq]
  exact ⟨fun e => by simp [e], fun e => word_ext e.1 e.2⟩

/-! ### The table (R94, R96) -/

/-- Every row's match and mask are what the pattern compiler makes of its pattern (R94, R96). -/
theorem dispatchTable_compiled :
    ∀ r ∈ dispatchTable, compilePattern r.pattern = some (r.mtch, r.mask) := by
  decide

/-- The table has exactly 35 rows (R96). -/
theorem dispatchTable_length : dispatchTable.length = 35 := rfl

end Sys2Proof
end

