-- ==== Sys2Proof/Laws/Ops.lean ====
section
/-! SUPPORT. What each shared operation over registers, stack, timers, inputs and fetch can do. -/

namespace Sys2Proof.Machine

/-! ### Call stack (R27) -/

/-- Everything `push` can do (R27, R264). -/
theorem State.push_spec (s : State) (v : Pc) :
    (s.push v = some { s with stack := v :: s.stack } ∧ s.stack.length < Config.stackDepth) ∨
      (s.push v = none ∧ Config.stackDepth ≤ s.stack.length) := by
  unfold State.push
  split_ifs with h
  · exact .inr ⟨rfl, h⟩
  · exact .inl ⟨rfl, not_le.mp h⟩

/-- Everything `pop` can do (R27, R265). -/
theorem State.pop_spec (s : State) :
    (∃ v rest, s.stack = v :: rest ∧ s.pop = some (v, { s with stack := rest })) ∨
      (s.stack = [] ∧ s.pop = none) := by
  unfold State.pop
  cases h : s.stack with
  | nil => exact .inr ⟨rfl, rfl⟩
  | cons v rest => exact .inl ⟨v, rest, rfl, rfl⟩

/-! ### Blocks of registers (R193, R194) -/

theorem getElem_loadRegs (V : Vector Byte 16) (k : Nat) (bs : List Byte) (q : Nat) (hq : q < 16) :
    (loadRegs V k bs)[q] =
      if h : k ≤ q ∧ q < k + bs.length then bs[q - k]'(by omega) else V[q] := by
  induction bs generalizing V k with
  | nil => rw [dif_neg (by simp)]; rfl
  | cons b bs ih =>
    simp only [loadRegs, ih, List.length_cons]
    by_cases h : k + 1 ≤ q ∧ q < k + 1 + bs.length
    · rw [dif_pos h, dif_pos (by omega)]
      simp only [show q - k = q - (k + 1) + 1 by omega, List.getElem_cons_succ]
    · rw [dif_neg h]
      by_cases hk : q = k
      · subst hk; simp
      · rw [dif_neg (by omega), Vector.getElem_setIfInBounds, if_neg (fun e => hk e.symm)]

/-- Reading a register after loading V0, V1, … from a list of bytes (R194). -/
theorem State.getV_setRegs (s : State) (bs : List Byte) (q : RegIdx) :
    (s.setRegs bs).getV q = if h : q.val < bs.length then bs[q.val] else s.getV q := by
  have h := getElem_loadRegs s.V 0 bs q.val q.isLt
  simpa [State.getV, State.setRegs] using h

@[simp] theorem State.length_regsUpTo (s : State) (x : RegIdx) :
    (s.regsUpTo x).length = x.val + 1 := by
  simp [State.regsUpTo]

/-- Byte k of the stored block is V[k] (R193). -/
theorem State.getElem_regsUpTo (s : State) (x : RegIdx) (k : Nat) (h : k < (s.regsUpTo x).length) :
    (s.regsUpTo x)[k] = s.getV ⟨k, by simp at h; omega⟩ := by
  simp [State.regsUpTo, State.getV]

/-! ### Timers (R181, R182) -/

/-- Everything `round` with ties to even can do (R181, D2): within one half of `d`, and even where
exactly one half away. -/
theorem roundNearest_spec (d : Rat) :
    -(1 / 2) ≤ d - roundNearest .toEven d ∧ d - roundNearest .toEven d ≤ 1 / 2 ∧
      (|d - roundNearest .toEven d| = 1 / 2 → roundNearest .toEven d % 2 = 0) := by
  have h0 : ((d.floor : Int) : Rat) ≤ d := Int.floor_le d
  have h1 : d < ((d.floor : Int) : Rat) + 1 := Int.lt_floor_add_one d
  unfold roundNearest
  simp only
  split_ifs with a b c
  · refine ⟨by linarith, by linarith, fun e => ?_⟩
    rw [abs_of_nonneg (by linarith)] at e; linarith
  · push_cast
    refine ⟨by linarith, by linarith, fun e => ?_⟩
    rw [abs_of_nonpos (by linarith)] at e; linarith
  · refine ⟨by linarith, by linarith, fun _ => c⟩
  · push_cast
    refine ⟨by linarith, by linarith, fun _ => by omega⟩

/-- The rounded value is the only integer so near (R181): what a proof about `round` uses. -/
theorem roundNearest_unique (d : Rat) (k : Int) (h1 : -(1 / 2) ≤ d - k) (h2 : d - k ≤ 1 / 2)
    (h3 : |d - k| = 1 / 2 → k % 2 = 0) : roundNearest .toEven d = k := by
  obtain ⟨a, b, c⟩ := roundNearest_spec d
  generalize roundNearest .toEven d = r at a b c
  have hr1 : (r : Rat) ≤ k + 1 := by linarith
  have hr2 : (k : Rat) ≤ r + 1 := by linarith
  have i1 : r ≤ k + 1 := by exact_mod_cast hr1
  have i2 : k ≤ r + 1 := by exact_mod_cast hr2
  rcases (by omega : r = k ∨ r = k + 1 ∨ k = r + 1) with e | e | e
  · exact e
  · subst e
    push_cast at a b c
    have hd : d - k = 1 / 2 := by linarith
    have e1 : |d - k| = 1 / 2 := by rw [hd]; norm_num
    have e2 : |d - (k + 1)| = 1 / 2 := by
      rw [show d - ((k : Rat) + 1) = -(1 / 2) by linarith]; norm_num
    have := h3 e1; have := c e2
    omega
  · subst e
    push_cast at h1 h2 h3
    have hd : d - r = 1 / 2 := by linarith
    have e1 : |d - r| = 1 / 2 := by rw [hd]; norm_num
    have e2 : |d - (r + 1)| = 1 / 2 := by
      rw [show d - ((r : Rat) + 1) = -(1 / 2) by linarith]; norm_num
    have := c e1; have := h3 e2
    omega

/-- A timer never reads below 0 (R181). -/
theorem timerRead_nonneg (t n : Rat) : 0 ≤ timerRead t n := le_max_left _ _

/-! ### Inputs (R33, R180) -/

/-- The time base never goes back (R180). -/
theorem advanceOf_nonneg (d : Draw) : 0 ≤ advanceOf d := by
  unfold advanceOf
  split_ifs with h
  · exact h
  · exact le_refl 0

/-! ### Reset (R290) -/

/-- Everything a reset can do: it refuses a ROM that does not fit, then a `now` the time base cannot
have, and otherwise answers the reset state (R64, R290; log 24). -/
theorem State.assertReset_spec (s : State) (rom : List Byte) (now : Rat) :
    (Config.romMax < rom.length ∧ s.assertReset rom now = .refused .romTooLong) ∨
      (rom.length ≤ Config.romMax ∧ (now < 0 ∨ now < s.port.now) ∧
        s.assertReset rom now = .refused .timeBeforeSample) ∨
      (rom.length ≤ Config.romMax ∧ 0 ≤ now ∧ s.port.now ≤ now ∧
        s.assertReset rom now = .next (s.resetWith rom now)) := by
  unfold State.assertReset State.timeAdmits
  split_ifs with h1 h2
  · exact .inl ⟨h1, rfl⟩
  · simp only [Bool.and_eq_true, decide_eq_true_eq] at h2
    exact .inr (.inr ⟨not_lt.mp h1, h2.1, h2.2, rfl⟩)
  · simp only [Bool.and_eq_true, decide_eq_true_eq, not_and_or, not_le] at h2
    exact .inr (.inl ⟨not_lt.mp h1, h2, rfl⟩)

/-! ### Fetch (R121) -/

/-- Everything `fetch` can do (R121, R267). -/
theorem fetch_spec (s : State) :
    (s.pc.getLsbD 0 = true ∧ fetch s = .error .misalignedFetch) ∨
      (s.pc.getLsbD 0 = false ∧ 0xFFE < s.pc.toNat ∧ fetch s = .error .addressOutOfRange) ∨
      (s.fetchable ∧ fetch s = .ok s.wordAtPc) := by
  unfold fetch
  by_cases h : s.pc.getLsbD 0 = true
  · exact .inl ⟨h, by simp [h]⟩
  · have h' : s.pc.getLsbD 0 = false := by simpa using h
    by_cases g : 0xFFF < s.pc.toNat + 1
    · exact .inr (.inl ⟨h', by omega, by rw [h', if_pos g]; rfl⟩)
    · exact .inr (.inr ⟨⟨h', by omega⟩, by rw [h', if_neg g]; rfl⟩)

end Sys2Proof.Machine
end

