-- ==== Sys2Proof/Laws/PerInstr.lean ====
section
/-! SUPPORT. Per-instruction families. `EncodesRow`: the word of an instruction is one its own row of
the dispatch table responds to, and the row builds the instruction back from the word's fields
(spec/30_encoding.md R92, R95, R96). -/

namespace Sys2Proof.Laws

/-- Some row of the table responds to the instruction's word and builds the instruction from it. -/
def EncodesRow.Statement (i : Instr) : Prop :=
  ∃ r ∈ dispatchTable, respondsTo r.mtch r.mask (encode i) = true ∧
    r.build (decodeFields (encode i)) = i

/-- A row of the table given by its place. -/
theorem encodesRow_at {i : Instr} (k : Nat) (hk : k < 35)
    (h1 : respondsTo (dispatchTable[k]'(by rw [dispatchTable_length]; exact hk)).mtch
      (dispatchTable[k]'(by rw [dispatchTable_length]; exact hk)).mask (encode i) = true)
    (h2 : (dispatchTable[k]'(by rw [dispatchTable_length]; exact hk)).build
      (decodeFields (encode i)) = i) : EncodesRow.Statement i :=
  ⟨_, List.getElem_mem _, h1, h2⟩

theorem EncodesRow.ldVxNn (x : RegIdx) (nn : Byte) : EncodesRow.Statement (.ldVxNn x nn) :=
  encodesRow_at 0 (by decide) ((respondsTo_F000 0x6000 _ (by decide)).trans
    (by simp [encode]))
    (show Instr.ldVxNn (decodeFields (encode (.ldVxNn x nn))).x (decodeFields (encode (.ldVxNn x nn))).nn =
      (.ldVxNn x nn) by
      simp [decodeFields, encode])

theorem EncodesRow.addVxNn (x : RegIdx) (nn : Byte) : EncodesRow.Statement (.addVxNn x nn) :=
  encodesRow_at 1 (by decide) ((respondsTo_F000 0x7000 _ (by decide)).trans
    (by simp [encode]))
    (show Instr.addVxNn (decodeFields (encode (.addVxNn x nn))).x (decodeFields (encode (.addVxNn x nn))).nn =
      (.addVxNn x nn) by
      simp [decodeFields, encode])

theorem EncodesRow.ldVxVy (x y : RegIdx) : EncodesRow.Statement (.ldVxVy x y) :=
  encodesRow_at 2 (by decide) ((respondsTo_F00F 0x8000 _ (by decide)).trans
    (by simp [encode, encodeXY_eq]))
    (show Instr.ldVxVy (decodeFields (encode (.ldVxVy x y))).x (decodeFields (encode (.ldVxVy x y))).y =
      (.ldVxVy x y) by
      simp [decodeFields, encode, encodeXY_eq])

theorem EncodesRow.orVxVy (x y : RegIdx) : EncodesRow.Statement (.orVxVy x y) :=
  encodesRow_at 3 (by decide) ((respondsTo_F00F 0x8001 _ (by decide)).trans
    (by simp [encode, encodeXY_eq]))
    (show Instr.orVxVy (decodeFields (encode (.orVxVy x y))).x (decodeFields (encode (.orVxVy x y))).y =
      (.orVxVy x y) by
      simp [decodeFields, encode, encodeXY_eq])

theorem EncodesRow.andVxVy (x y : RegIdx) : EncodesRow.Statement (.andVxVy x y) :=
  encodesRow_at 4 (by decide) ((respondsTo_F00F 0x8002 _ (by decide)).trans
    (by simp [encode, encodeXY_eq]))
    (show Instr.andVxVy (decodeFields (encode (.andVxVy x y))).x (decodeFields (encode (.andVxVy x y))).y =
      (.andVxVy x y) by
      simp [decodeFields, encode, encodeXY_eq])

theorem EncodesRow.xorVxVy (x y : RegIdx) : EncodesRow.Statement (.xorVxVy x y) :=
  encodesRow_at 5 (by decide) ((respondsTo_F00F 0x8003 _ (by decide)).trans
    (by simp [encode, encodeXY_eq]))
    (show Instr.xorVxVy (decodeFields (encode (.xorVxVy x y))).x (decodeFields (encode (.xorVxVy x y))).y =
      (.xorVxVy x y) by
      simp [decodeFields, encode, encodeXY_eq])

theorem EncodesRow.addVxVy (x y : RegIdx) : EncodesRow.Statement (.addVxVy x y) :=
  encodesRow_at 6 (by decide) ((respondsTo_F00F 0x8004 _ (by decide)).trans
    (by simp [encode, encodeXY_eq]))
    (show Instr.addVxVy (decodeFields (encode (.addVxVy x y))).x (decodeFields (encode (.addVxVy x y))).y =
      (.addVxVy x y) by
      simp [decodeFields, encode, encodeXY_eq])

theorem EncodesRow.subVxVy (x y : RegIdx) : EncodesRow.Statement (.subVxVy x y) :=
  encodesRow_at 7 (by decide) ((respondsTo_F00F 0x8005 _ (by decide)).trans
    (by simp [encode, encodeXY_eq]))
    (show Instr.subVxVy (decodeFields (encode (.subVxVy x y))).x (decodeFields (encode (.subVxVy x y))).y =
      (.subVxVy x y) by
      simp [decodeFields, encode, encodeXY_eq])

theorem EncodesRow.shrVxVy (x y : RegIdx) : EncodesRow.Statement (.shrVxVy x y) :=
  encodesRow_at 8 (by decide) ((respondsTo_F00F 0x8006 _ (by decide)).trans
    (by simp [encode, encodeXY_eq]))
    (show Instr.shrVxVy (decodeFields (encode (.shrVxVy x y))).x (decodeFields (encode (.shrVxVy x y))).y =
      (.shrVxVy x y) by
      simp [decodeFields, encode, encodeXY_eq])

theorem EncodesRow.subnVxVy (x y : RegIdx) : EncodesRow.Statement (.subnVxVy x y) :=
  encodesRow_at 9 (by decide) ((respondsTo_F00F 0x8007 _ (by decide)).trans
    (by simp [encode, encodeXY_eq]))
    (show Instr.subnVxVy (decodeFields (encode (.subnVxVy x y))).x (decodeFields (encode (.subnVxVy x y))).y =
      (.subnVxVy x y) by
      simp [decodeFields, encode, encodeXY_eq])

theorem EncodesRow.shlVxVy (x y : RegIdx) : EncodesRow.Statement (.shlVxVy x y) :=
  encodesRow_at 10 (by decide) ((respondsTo_F00F 0x800E _ (by decide)).trans
    (by simp [encode, encodeXY_eq]))
    (show Instr.shlVxVy (decodeFields (encode (.shlVxVy x y))).x (decodeFields (encode (.shlVxVy x y))).y =
      (.shlVxVy x y) by
      simp [decodeFields, encode, encodeXY_eq])

theorem EncodesRow.rndVxNn (x : RegIdx) (nn : Byte) : EncodesRow.Statement (.rndVxNn x nn) :=
  encodesRow_at 11 (by decide) ((respondsTo_F000 0xC000 _ (by decide)).trans
    (by simp [encode]))
    (show Instr.rndVxNn (decodeFields (encode (.rndVxNn x nn))).x (decodeFields (encode (.rndVxNn x nn))).nn =
      (.rndVxNn x nn) by
      simp [decodeFields, encode])

theorem EncodesRow.jpNnn (nnn : Addr) : EncodesRow.Statement (.jpNnn nnn) :=
  encodesRow_at 12 (by decide) ((respondsTo_F000 0x1000 _ (by decide)).trans
    (by simp [encode]))
    (show Instr.jpNnn (decodeFields (encode (.jpNnn nnn))).nnn =
      (.jpNnn nnn) by
      simp [decodeFields, encode])

theorem EncodesRow.jpV0Nnn (nnn : Addr) : EncodesRow.Statement (.jpV0Nnn nnn) :=
  encodesRow_at 13 (by decide) ((respondsTo_F000 0xB000 _ (by decide)).trans
    (by simp [encode]))
    (show Instr.jpV0Nnn (decodeFields (encode (.jpV0Nnn nnn))).nnn =
      (.jpV0Nnn nnn) by
      simp [decodeFields, encode])

theorem EncodesRow.callNnn (nnn : Addr) : EncodesRow.Statement (.callNnn nnn) :=
  encodesRow_at 14 (by decide) ((respondsTo_F000 0x2000 _ (by decide)).trans
    (by simp [encode]))
    (show Instr.callNnn (decodeFields (encode (.callNnn nnn))).nnn =
      (.callNnn nnn) by
      simp [decodeFields, encode])

theorem EncodesRow.ret : EncodesRow.Statement .ret :=
  encodesRow_at 15 (by decide) (by decide) rfl

theorem EncodesRow.seVxNn (x : RegIdx) (nn : Byte) : EncodesRow.Statement (.seVxNn x nn) :=
  encodesRow_at 16 (by decide) ((respondsTo_F000 0x3000 _ (by decide)).trans
    (by simp [encode]))
    (show Instr.seVxNn (decodeFields (encode (.seVxNn x nn))).x (decodeFields (encode (.seVxNn x nn))).nn =
      (.seVxNn x nn) by
      simp [decodeFields, encode])

theorem EncodesRow.sneVxNn (x : RegIdx) (nn : Byte) : EncodesRow.Statement (.sneVxNn x nn) :=
  encodesRow_at 17 (by decide) ((respondsTo_F000 0x4000 _ (by decide)).trans
    (by simp [encode]))
    (show Instr.sneVxNn (decodeFields (encode (.sneVxNn x nn))).x (decodeFields (encode (.sneVxNn x nn))).nn =
      (.sneVxNn x nn) by
      simp [decodeFields, encode])

theorem EncodesRow.seVxVy (x y : RegIdx) : EncodesRow.Statement (.seVxVy x y) :=
  encodesRow_at 18 (by decide) ((respondsTo_F00F 0x5000 _ (by decide)).trans
    (by simp [encode, encodeXY_eq]))
    (show Instr.seVxVy (decodeFields (encode (.seVxVy x y))).x (decodeFields (encode (.seVxVy x y))).y =
      (.seVxVy x y) by
      simp [decodeFields, encode, encodeXY_eq])

theorem EncodesRow.sneVxVy (x y : RegIdx) : EncodesRow.Statement (.sneVxVy x y) :=
  encodesRow_at 19 (by decide) ((respondsTo_F00F 0x9000 _ (by decide)).trans
    (by simp [encode, encodeXY_eq]))
    (show Instr.sneVxVy (decodeFields (encode (.sneVxVy x y))).x (decodeFields (encode (.sneVxVy x y))).y =
      (.sneVxVy x y) by
      simp [decodeFields, encode, encodeXY_eq])

theorem EncodesRow.ldDtVx (x : RegIdx) : EncodesRow.Statement (.ldDtVx x) :=
  encodesRow_at 20 (by decide) ((respondsTo_F0FF 0xF015 _ (by decide)).trans
    (by simp [encode, encodeX_eq]))
    (show Instr.ldDtVx (decodeFields (encode (.ldDtVx x))).x =
      (.ldDtVx x) by
      simp [decodeFields, encode, encodeX_eq])

theorem EncodesRow.ldStVx (x : RegIdx) : EncodesRow.Statement (.ldStVx x) :=
  encodesRow_at 21 (by decide) ((respondsTo_F0FF 0xF018 _ (by decide)).trans
    (by simp [encode, encodeX_eq]))
    (show Instr.ldStVx (decodeFields (encode (.ldStVx x))).x =
      (.ldStVx x) by
      simp [decodeFields, encode, encodeX_eq])

theorem EncodesRow.ldVxDt (x : RegIdx) : EncodesRow.Statement (.ldVxDt x) :=
  encodesRow_at 22 (by decide) ((respondsTo_F0FF 0xF007 _ (by decide)).trans
    (by simp [encode, encodeX_eq]))
    (show Instr.ldVxDt (decodeFields (encode (.ldVxDt x))).x =
      (.ldVxDt x) by
      simp [decodeFields, encode, encodeX_eq])

theorem EncodesRow.ldINnn (nnn : Addr) : EncodesRow.Statement (.ldINnn nnn) :=
  encodesRow_at 23 (by decide) ((respondsTo_F000 0xA000 _ (by decide)).trans
    (by simp [encode]))
    (show Instr.ldINnn (decodeFields (encode (.ldINnn nnn))).nnn =
      (.ldINnn nnn) by
      simp [decodeFields, encode])

theorem EncodesRow.addIVx (x : RegIdx) : EncodesRow.Statement (.addIVx x) :=
  encodesRow_at 24 (by decide) ((respondsTo_F0FF 0xF01E _ (by decide)).trans
    (by simp [encode, encodeX_eq]))
    (show Instr.addIVx (decodeFields (encode (.addIVx x))).x =
      (.addIVx x) by
      simp [decodeFields, encode, encodeX_eq])

theorem EncodesRow.ldBVx (x : RegIdx) : EncodesRow.Statement (.ldBVx x) :=
  encodesRow_at 25 (by decide) ((respondsTo_F0FF 0xF033 _ (by decide)).trans
    (by simp [encode, encodeX_eq]))
    (show Instr.ldBVx (decodeFields (encode (.ldBVx x))).x =
      (.ldBVx x) by
      simp [decodeFields, encode, encodeX_eq])

theorem EncodesRow.ldMemIVx (x : RegIdx) : EncodesRow.Statement (.ldMemIVx x) :=
  encodesRow_at 26 (by decide) ((respondsTo_F0FF 0xF055 _ (by decide)).trans
    (by simp [encode, encodeX_eq]))
    (show Instr.ldMemIVx (decodeFields (encode (.ldMemIVx x))).x =
      (.ldMemIVx x) by
      simp [decodeFields, encode, encodeX_eq])

theorem EncodesRow.ldVxMemI (x : RegIdx) : EncodesRow.Statement (.ldVxMemI x) :=
  encodesRow_at 27 (by decide) ((respondsTo_F0FF 0xF065 _ (by decide)).trans
    (by simp [encode, encodeX_eq]))
    (show Instr.ldVxMemI (decodeFields (encode (.ldVxMemI x))).x =
      (.ldVxMemI x) by
      simp [decodeFields, encode, encodeX_eq])

theorem EncodesRow.ldFVx (x : RegIdx) : EncodesRow.Statement (.ldFVx x) :=
  encodesRow_at 28 (by decide) ((respondsTo_F0FF 0xF029 _ (by decide)).trans
    (by simp [encode, encodeX_eq]))
    (show Instr.ldFVx (decodeFields (encode (.ldFVx x))).x =
      (.ldFVx x) by
      simp [decodeFields, encode, encodeX_eq])

theorem EncodesRow.drwVxVyN (x y : RegIdx) (n : Nibble) : EncodesRow.Statement (.drwVxVyN x y n) :=
  encodesRow_at 29 (by decide) ((respondsTo_F000 0xD000 _ (by decide)).trans
    (by simp [encode]))
    (show Instr.drwVxVyN (decodeFields (encode (.drwVxVyN x y n))).x (decodeFields (encode (.drwVxVyN x y n))).y (decodeFields (encode (.drwVxVyN x y n))).n =
      (.drwVxVyN x y n) by
      simp [decodeFields, encode])

theorem EncodesRow.cls : EncodesRow.Statement .cls :=
  encodesRow_at 30 (by decide) (by decide) rfl

theorem EncodesRow.ldVxK (x : RegIdx) : EncodesRow.Statement (.ldVxK x) :=
  encodesRow_at 31 (by decide) ((respondsTo_F0FF 0xF00A _ (by decide)).trans
    (by simp [encode, encodeX_eq]))
    (show Instr.ldVxK (decodeFields (encode (.ldVxK x))).x =
      (.ldVxK x) by
      simp [decodeFields, encode, encodeX_eq])

theorem EncodesRow.skpVx (x : RegIdx) : EncodesRow.Statement (.skpVx x) :=
  encodesRow_at 32 (by decide) ((respondsTo_F0FF 0xE09E _ (by decide)).trans
    (by simp [encode, encodeX_eq]))
    (show Instr.skpVx (decodeFields (encode (.skpVx x))).x =
      (.skpVx x) by
      simp [decodeFields, encode, encodeX_eq])

theorem EncodesRow.sknpVx (x : RegIdx) : EncodesRow.Statement (.sknpVx x) :=
  encodesRow_at 33 (by decide) ((respondsTo_F0FF 0xE0A1 _ (by decide)).trans
    (by simp [encode, encodeX_eq]))
    (show Instr.sknpVx (decodeFields (encode (.sknpVx x))).x =
      (.sknpVx x) by
      simp [decodeFields, encode, encodeX_eq])

theorem EncodesRow.sysNnn (nnn : Addr) : EncodesRow.Statement (.sysNnn nnn) :=
  encodesRow_at 34 (by decide) ((respondsTo_F000 0x0000 _ (by decide)).trans
    (by simp [encode]))
    (show Instr.sysNnn (decodeFields (encode (.sysNnn nnn))).nnn =
      (.sysNnn nnn) by
      simp [decodeFields, encode])

end Sys2Proof.Laws
end

