-- ==== Sys2Proof/Laws/Step.lean ====
section
/-! SUPPORT. What every handler and every step can do, said once. -/

namespace Sys2Proof.Machine

/-- Everything a handler can do to the fault record: it completes and leaves the record alone, or it
takes one fault, which changes nothing but the record (R120, R268). -/
theorem exec_spec (i : Instr) (s : State) :
    (∃ t, exec i s = .next t ∧ t.fault = s.fault) ∨
      ∃ c, c ≠ Cause.none ∧ exec i s = .next (s.raiseBy c i) := by
  cases i
  case callNnn nnn =>
    obtain ⟨e, -⟩ | ⟨e, -⟩ := s.push_spec s.pc
    · exact .inl ⟨({ s with stack := s.pc :: s.stack } : State).setPc (targetOf nnn),
        by simp only [exec, execCallNnn, e], rfl⟩
    · exact .inr ⟨.stackOverflow, by decide, by simp only [exec, execCallNnn, e]⟩
  case ret =>
    obtain ⟨v, rest, -, e⟩ | ⟨-, e⟩ := s.pop_spec
    · exact .inl ⟨({ s with stack := rest } : State).setPc (v + 2),
        by simp only [exec, execRet, e], rfl⟩
    · exact .inr ⟨.stackUnderflow, by decide, by simp only [exec, execRet, e]⟩
  case sysNnn nnn => exact .inr ⟨.unsupportedInstruction, by decide, rfl⟩
  case ldBVx x =>
    obtain ⟨e, -⟩ | ⟨e, -⟩ := s.memWrite_spec (s.addrAtI 0) (decimalDigits (s.getV x))
    · exact .inl ⟨({ s with mem := _ } : State).next2, by simp only [exec, execLdBVx, e]; rfl, rfl⟩
    · exact .inr ⟨.addressOutOfRange, by decide, by simp only [exec, execLdBVx, e]⟩
  case ldMemIVx x =>
    obtain ⟨e, -⟩ | ⟨e, -⟩ := s.memWrite_spec (s.addrAtI 0) (s.regsUpTo x)
    · exact .inl ⟨({ s with mem := _ } : State).next2, by simp only [exec, execLdMemIVx, e]; rfl, rfl⟩
    · exact .inr ⟨.addressOutOfRange, by decide, by simp only [exec, execLdMemIVx, e]⟩
  case ldVxMemI x =>
    obtain ⟨e, -⟩ | ⟨e, -⟩ := s.memRead_spec (s.addrAtI 0) (x.val + 1)
    · exact .inl ⟨(s.setRegs _).next2, by simp only [exec, execLdVxMemI, e]; rfl, rfl⟩
    · exact .inr ⟨.addressOutOfRange, by decide, by simp only [exec, execLdVxMemI, e]⟩
  case drwVxVyN x y n =>
    obtain ⟨e, -⟩ | ⟨e, -⟩ := s.memRead_spec (s.addrAtI 0) n.toNat
    · exact .inl ⟨(s.draw _ _ _).next2, by simp only [exec, execDrwVxVyN, e]; rfl, rfl⟩
    · exact .inr ⟨.addressOutOfRange, by decide, by simp only [exec, execDrwVxVyN, e]⟩
  case ldVxK x =>
    cases h : s.port.key with
    | none => exact .inl ⟨s, by simp only [exec, execLdVxK, h], rfl⟩
    | some k => exact .inl ⟨(s.setV x _).next2, by simp only [exec, execLdVxK, h]; rfl, rfl⟩
  all_goals exact .inl ⟨_, rfl, rfl⟩

/-- Everything a step of a running machine can do (R120): a fetch fault, an unsupported word, or the
handler of the decoded instruction, each on the state with the step's inputs sampled. -/
theorem step_spec (s : State) (h : s.running) :
    (s.pc.getLsbD 0 = true ∧ step s = .next (s.sample.raise .misalignedFetch 0)) ∨
      (s.pc.getLsbD 0 = false ∧ 0xFFE < s.pc.toNat ∧
        step s = .next (s.sample.raise .addressOutOfRange 0)) ∨
      (s.fetchable ∧ decode s.wordAtPc = none ∧
        step s = .next (s.sample.raise .unsupportedInstruction s.wordAtPc)) ∨
      (s.fetchable ∧ ∃ i, decode s.wordAtPc = some i ∧ step s = exec i s.sample) := by
  have hw : s.sample.wordAtPc = s.wordAtPc := rfl
  unfold step
  rw [if_neg (by rw [h]; decide)]
  obtain ⟨p, e⟩ | ⟨p, q, e⟩ | ⟨p, e⟩ := fetch_spec s.sample
  · exact .inl ⟨p, by rw [e]⟩
  · exact .inr (.inl ⟨p, q, by rw [e]⟩)
  · rw [e, hw]
    cases hd : decode s.wordAtPc with
    | none => exact .inr (.inr (.inl ⟨p, rfl, by simp only [hd]⟩))
    | some i => exact .inr (.inr (.inr ⟨p, i, rfl, by simp only [hd]⟩))

end Sys2Proof.Machine
end

