-- ==== Sys2Proof/Tests/Slice0.lean ====
section
/-! SUPPORT. Tests on fixed values taken from spec/95_test_vectors.md and the encodings of
spec/30_encoding.md, and a state that meets the hypotheses of every statement that has some. -/

namespace Sys2Proof.Tests

open Sys2Proof.Machine

/-! ### Small states -/

/-- The reset state with the draw of the vectors' conventions next: no time passes, no key, `rnd` 0. -/
def start : State := { State.reset with script := [{ elapsed := 0, key := none, rnd := 0 }] }

/-- The state with some registers set. -/
def withV (s : State) (rs : List (RegIdx × Byte)) : State := rs.foldl (fun t p => t.setV p.1 p.2) s

/-- The state with another next draw. -/
def withDraw (s : State) (elapsed : Rat) (key : Option KeyId) (rnd : Byte) : State :=
  { s with script := [{ elapsed := elapsed, key := key, rnd := rnd }] }

/-- The state with some bytes of memory stored. -/
def withMem (s : State) (a : Nat) (bs : List Byte) : State :=
  { s with mem := Memory.writeBytes s.mem a bs }

/-- The state after one step that runs the word `w`, if the step has a next state. -/
def after (s : State) (w : Nat) : Option State :=
  match step (s.withFetchWord 16 w) with
  | .next t => some t
  | .fault _ => none
  | .refused _ => none

/-- Registers, VF and `pc` of the state after running `w`. -/
def regsAfter (s : State) (w : Nat) (rs : List RegIdx) : Option (List Byte × Byte × Pc) :=
  (after s w).map fun t => (rs.map t.getV, t.getV VF, t.pc)

/-- The `pc` after running `w`. -/
def pcAfter (s : State) (w : Nat) : Option Pc := (after s w).map fun t => t.pc

/-- The fault record after running `w`. -/
def recordAfter (s : State) (w : Nat) : Option FaultRecord := (after s w).map fun t => t.fault

/-- Are exactly the listed pixels on, each listed once? -/
def litExactly (d : Disp) (ps : List (Fin 64 × Fin 32)) : Bool :=
  (ps.all fun p => d.pixel p.1 p.2) && ((d.toList.map fun col => col.toList.count true).sum == ps.length)

/-- The state whose latest sample of the time base is `now`. -/
def sampledAt (now : Rat) : State := { start with port := { start.port with now := now } }

theorem assertReset_accepted (s : State) (now : Rat) (h : s.timeAdmits now = true) :
    ∃ t, s.assertReset [] now = .next t ∧ t.port.now = now :=
  ⟨_, if_pos h, rfl⟩

theorem assertReset_refused (s : State) (now : Rat) (h : ¬ s.timeAdmits now = true) :
    s.assertReset [] now = .refused .timeBeforeSample := if_neg h

/-- A stack of `n` entries. -/
def withDepth (s : State) (n : Nat) : State := { s with stack := List.replicate n 0x204 }

/-! ### WellFormed: each check refuses an ill-formed instruction (R97, R99) -/

theorem test_wellFormed_refuses_sys_0E0 : (Instr.sysNnn 0x0E0).wellFormed = false := by decide
theorem test_wellFormed_refuses_sys_0EE : (Instr.sysNnn 0x0EE).wellFormed = false := by decide
theorem test_wellFormed_accepts :
    (Instr.sysNnn 0x0E1).wellFormed ∧ (Instr.sysNnn 0x000).wellFormed ∧
      (Instr.sysNnn 0xFFF).wellFormed ∧ Instr.cls.wellFormed ∧
      (Instr.drwVxVyN 15 15 15).wellFormed := by decide

/-! ### Decoding: every constructor, words written out field by field from R92 and R96 -/

theorem test_decode_loadArith :
    decode 0b0110_1010_00101011 = some (.ldVxNn 10 0x2B) ∧
    decode 0b0111_0011_11111111 = some (.addVxNn 3 0xFF) ∧
    decode 0b1000_1010_1011_0000 = some (.ldVxVy 10 11) ∧
    decode 0b1000_0000_0001_0001 = some (.orVxVy 0 1) ∧
    decode 0b1000_0010_0001_0010 = some (.andVxVy 2 1) ∧
    decode 0b1000_0011_0111_0011 = some (.xorVxVy 3 7) ∧
    decode 0b1000_0001_0000_0100 = some (.addVxVy 1 0) ∧
    decode 0b1000_1111_0001_0101 = some (.subVxVy 15 1) ∧
    decode 0b1000_0001_1111_0110 = some (.shrVxVy 1 15) ∧
    decode 0b1000_0001_0010_0111 = some (.subnVxVy 1 2) ∧
    decode 0b1000_0001_0010_1110 = some (.shlVxVy 1 2) ∧
    decode 0b1100_0101_11110000 = some (.rndVxNn 5 0xF0) := by decide

theorem test_decode_control :
    decode 0b0001_101010111100 = some (.jpNnn 0xABC) ∧
    decode 0b1011_001100000000 = some (.jpV0Nnn 0x300) ∧
    decode 0b0010_001000001010 = some (.callNnn 0x20A) ∧
    decode 0b0000_0000_1110_1110 = some .ret ∧
    decode 0b0011_0001_00000000 = some (.seVxNn 1 0) ∧
    decode 0b0100_0001_00000101 = some (.sneVxNn 1 5) ∧
    decode 0b0101_0010_0011_0000 = some (.seVxVy 2 3) ∧
    decode 0b1001_0010_0011_0000 = some (.sneVxVy 2 3) := by decide

theorem test_decode_timersAddress :
    decode 0b1111_0000_00010101 = some (.ldDtVx 0) ∧
    decode 0b1111_0011_00011000 = some (.ldStVx 3) ∧
    decode 0b1111_0001_00000111 = some (.ldVxDt 1) ∧
    decode 0b1010_001011110000 = some (.ldINnn 0x2F0) ∧
    decode 0b1111_0100_00011110 = some (.addIVx 4) ∧
    decode 0b1111_0101_00110011 = some (.ldBVx 5) ∧
    decode 0b1111_0010_01010101 = some (.ldMemIVx 2) ∧
    decode 0b1111_0001_01100101 = some (.ldVxMemI 1) ∧
    decode 0b1111_0110_00101001 = some (.ldFVx 6) := by decide

theorem test_decode_displayKeypad :
    decode 0b1101_0001_0010_1111 = some (.drwVxVyN 1 2 15) ∧
    decode 0b0000_0000_1110_0000 = some .cls ∧
    decode 0b1111_1111_00001010 = some (.ldVxK 15) ∧
    decode 0b1110_0010_10011110 = some (.skpVx 2) ∧
    decode 0b1110_0010_10100001 = some (.sknpVx 2) ∧
    decode 0b0000_000100100011 = some (.sysNnn 0x123) := by decide

/-- Vector E11: words that no definition matches. -/
theorem test_decode_no_match :
    [0x5231, 0x9ABF, 0x8128, 0x812F, 0xE29F, 0xE000, 0xF000, 0xF1FF, 0xFFFF].map decode =
      List.replicate 9 none := by decide

/-- Vectors E1, E3: the fields of a word. -/
theorem test_decodeFields :
    decodeFields 0x8AB4 = { family := 8, x := 10, y := 11, n := 4, nn := 0xB4, nnn := 0xAB4 } ∧
    decodeFields 0x00E0 = { family := 0, x := 0, y := 14, n := 0, nn := 0xE0, nnn := 0x0E0 } := by
  decide

/-- Vectors E4 to E7, S10: compiled patterns. -/
theorem test_compilePattern :
    compilePattern ['0', '0', 'E', 'E'] = some (0x00EE, 0xFFFF) ∧
    compilePattern ['D', 'X', 'Y', 'N'] = some (0xD000, 0xF000) ∧
    compilePattern ['F', 'X', '0', 'A'] = some (0xF00A, 0xF0FF) ∧
    compilePattern ['5', 'X', 'Y', '0'] = some (0x5000, 0xF00F) ∧
    compilePattern ['8', 'x', 'y', '4'] = some (0x8004, 0xF00F) ∧
    compilePattern ['8', 'X', 'Y'] = none ∧ compilePattern ['8', 'X', 'Z', '4'] = none := by decide

/-- Vector S8: what the pattern 1xx4 matches and rejects. -/
theorem test_pattern_1xx4 :
    compilePattern ['1', 'x', 'x', '4'] = some (0x1004, 0xF00F) ∧
    [0x1234, 0x1324, 0x1FF4, 0xFFFF, 0x0000, 0x1000].map (respondsTo 0x1004 0xF00F) =
      [true, true, true, false, false, false] := by decide

/-- Vector E17: the byte at the lower address is the high half; bytes after the word are left. -/
theorem test_decodeBytes_big_endian :
    decodeBytes [0x12, 0x34, 0x56] = .ok (.jpNnn 0x234, [0x56]) ∧
    decodeTableWord 16 0x1234 = some (.jpNnn 0x234) := ⟨rfl, by decide⟩

/-! ### Load, arithmetic, logic, shift, random (vectors A1 to A30) -/

theorem test_ldVxNn_A1 : regsAfter (withV start [(10, 0x99)]) 0x6A2B [10] = some ([0x2B], 0, 0x202) := by decide
theorem test_addVxNn_A3 : regsAfter (withV start [(3, 0xFF)]) 0x7301 [3] = some ([0x00], 0, 0x202) := by decide
theorem test_addVxNn_A4 : regsAfter (withV start [(15, 0xFF)]) 0x7F02 [15] = some ([0x01], 1, 0x202) := by decide
theorem test_ldVxVy_A5 :
    regsAfter (withV start [(10, 0x01), (11, 0xC3)]) 0x8AB0 [10, 11] = some ([0xC3, 0xC3], 0, 0x202) := by decide
theorem test_orVxVy_A6 :
    regsAfter (withV start [(0, 0xF0), (1, 0x0F), (15, 0x55)]) 0x8011 [0, 1] =
      some ([0xFF, 0x0F], 0x55, 0x202) := by decide
theorem test_andVxVy_A7 :
    regsAfter (withV start [(0, 0xF3), (1, 0x3C), (15, 0x55)]) 0x8012 [0, 1] =
      some ([0x30, 0x3C], 0x55, 0x202) := by decide
theorem test_xorVxVy_A8 :
    regsAfter (withV start [(3, 0xA7), (15, 0x55)]) 0x8333 [3] = some ([0x00], 0x55, 0x202) := by decide
theorem test_addVxVy_A9 :
    regsAfter (withV start [(0, 0xF0), (1, 0x0F), (15, 1)]) 0x8014 [0, 1] = some ([0xFF, 0x0F], 0, 0x202) := by decide
theorem test_addVxVy_A11 :
    regsAfter (withV start [(15, 0xC8), (1, 0x64)]) 0x8F14 [1] = some ([0x64], 1, 0x202) := by decide
theorem test_subVxVy_A12 :
    regsAfter (withV start [(0, 0x42), (1, 0x42), (15, 1)]) 0x8015 [0, 1] = some ([0, 0x42], 0, 0x202) := by decide
theorem test_subVxVy_S3 :
    regsAfter (withV start [(1, 0x0A), (0, 0x0B)]) 0x8105 [1, 0] = some ([0xFF, 0x0B], 0, 0x202) := by decide
theorem test_shrVxVy_A15 :
    regsAfter (withV start [(1, 0x07)]) 0x8F16 [1] = some ([0x07], 0x03, 0x202) := by decide
theorem test_shrVxVy_A16 :
    regsAfter (withV start [(15, 0x03), (1, 0x99)]) 0x81F6 [1] = some ([0x01], 1, 0x202) := by decide
theorem test_subnVxVy_A17 :
    regsAfter (withV start [(0, 0x42), (1, 0x42), (15, 1)]) 0x8017 [0, 1] = some ([0, 0x42], 0, 0x202) := by decide
theorem test_subnVxVy_A18 :
    regsAfter (withV start [(2, 0x0A), (3, 0x03)]) 0x8237 [2, 3] = some ([0xF9, 0x03], 0, 0x202) := by decide
theorem test_shlVxVy_A19 :
    regsAfter (withV start [(0, 0x80), (1, 0x11)]) 0x810E [1, 0] = some ([0x00, 0x80], 1, 0x202) := by decide
theorem test_shlVxVy_A28 :
    regsAfter (withV start [(15, 0x81)]) 0x8FFE [15] = some ([0x02], 0x02, 0x202) := by decide
theorem test_rndVxNn_A21 :
    regsAfter (withDraw (withV start [(5, 1)]) 0 none 0xB7) 0xC5F0 [5] = some ([0xB0], 0, 0x202) := by decide

/-! ### Control flow (vectors J1 to J14) -/

theorem test_jpNnn_J1 : pcAfter start 0x1ABC = some 0xABC := by decide
theorem test_jpNnn_J3_odd_target : pcAfter start 0x1201 = some 0x201 := by decide
theorem test_jpV0Nnn_J4 : pcAfter (withV start [(0, 4)]) 0xB300 = some 0x304 := by decide
theorem test_jpV0Nnn_J5_not_reduced : pcAfter (withV start [(0, 0xFF)]) 0xBFFF = some 0x10FE := by decide
theorem test_callNnn_J7 :
    (after { start with pc := 0x204 } 0x220A).map (fun t => (t.stack, t.pc)) = some ([0x204], 0x20A) := by decide
theorem test_callNnn_J10_overflow :
    (after (withDepth { start with pc := 0x204 } 16) 0x2300).map (fun t => (t.fault, t.pc, t.stack.length)) =
      some (⟨true, .stackOverflow, 0x204, 0x2300⟩, 0x204, 16) := by decide
theorem test_ret_J9 :
    (after { start with pc := 0x400, stack := [0x30A, 0x204] } 0x00EE).map (fun t => (t.stack, t.pc)) =
      some ([0x204], 0x30C) := by decide
theorem test_ret_J11_underflow :
    recordAfter start 0x00EE = some ⟨true, .stackUnderflow, 0x200, 0x00EE⟩ := by decide
theorem test_sysNnn_J14 :
    recordAfter start 0x0123 = some ⟨true, .unsupportedInstruction, 0x200, 0x0123⟩ := by decide

/-! ### Skips (vectors K1 to K11) -/

theorem test_seVxNn_K1 : pcAfter { start with pc := 0x208 } 0x3100 = some 0x20C := by decide
theorem test_seVxNn_K2 : pcAfter (withV { start with pc := 0x208 } [(1, 1)]) 0x3100 = some 0x20A := by decide
theorem test_sneVxNn_K3 : pcAfter (withV { start with pc := 0x300 } [(1, 5)]) 0x4105 = some 0x302 := by decide
theorem test_sneVxNn_K4 : pcAfter (withV { start with pc := 0x300 } [(1, 6)]) 0x4105 = some 0x304 := by decide
theorem test_seVxVy_K5 :
    pcAfter (withV { start with pc := 0x210 } [(2, 0x7F), (3, 0x7F)]) 0x5230 = some 0x214 := by decide
theorem test_seVxVy_K6 :
    pcAfter (withV { start with pc := 0x210 } [(2, 0x7F), (3, 0x80)]) 0x5230 = some 0x212 := by decide
theorem test_sneVxVy_K7 :
    pcAfter (withV { start with pc := 0x210 } [(2, 0x7F), (3, 0x80)]) 0x9230 = some 0x214 := by decide
theorem test_sneVxVy_K8 : pcAfter (withV { start with pc := 0x210 } [(2, 0x7F)]) 0x9220 = some 0x212 := by decide

/-! ### Timers (vectors T1 to T15) -/

theorem test_ldDtVx_T1 :
    (after (withDraw (withV start [(0, 0x0A)]) 100 none 0) 0xF015).map (fun t => t.dtTarget) = some 110 := by
  decide +kernel
theorem test_ldStVx_T11 :
    (after (withDraw (withV start [(3, 2)]) 42 none 0) 0xF318).map (fun t => (t.stTarget, t.dtTarget)) =
      some (44, 0) := by decide +kernel
theorem test_ldVxDt_T3_T4 :
    regsAfter (withDraw { start with dtTarget := 110 } (517 / 5) none 0) 0xF107 [1] = some ([7], 0, 0x202) ∧
    regsAfter (withDraw { start with dtTarget := 110 } (1067 / 10) none 0) 0xF107 [1] = some ([3], 0, 0x202) := by
  decide +kernel
/-- Ties to even (T6 to T9), and never below 0 (T14). -/
theorem test_timerRead_ties :
    [(201 / 2 : Rat), 203 / 2, 219 / 2, 217 / 2, 250].map (timerRead 110) = [10, 8, 0, 2, 0] := by
  decide +kernel

/-! ### Address register, BCD, blocks (vectors M1 to M17) -/

theorem test_ldINnn_M1 : (after start 0xA2F0).map (fun t => t.I) = some 0x2F0 := by decide
theorem test_addIVx_M3 :
    (after (withV { start with I := 0xFFF } [(4, 1), (15, 7)]) 0xF41E).map (fun t => (t.I, t.getV VF)) =
      some (0, 7) := by decide
theorem test_ldBVx_M6 :
    (after (withV { start with I := 0xFFD } [(0, 0xFE)]) 0xF033).map (fun t => (t.mem.readBytes 0xFFD 3, t.I)) =
      some ([2, 5, 4], 0xFFD) := by decide
theorem test_ldBVx_M7_out_of_range :
    (after (withV { start with I := 0xFFE } [(0, 0xFE)]) 0xF033).map (fun t => (t.fault, t.mem.readBytes 0xFFE 2)) =
      some (⟨true, .addressOutOfRange, 0x200, 0xF033⟩, [0, 0]) := by decide
theorem test_ldMemIVx_M8 :
    (after (withV { start with I := 0x400 } [(0, 0x11), (1, 0x22), (2, 0x33), (3, 0x44)]) 0xF255).map
      (fun t => (t.mem.readBytes 0x400 4, t.I)) = some ([0x11, 0x22, 0x33, 0], 0x400) := by decide
theorem test_ldMemIVx_M10_out_of_range :
    (after (withV { start with I := 0xFFF } [(0, 0x11), (1, 0x22)]) 0xF155).map
      (fun t => (t.fault.cause, t.mem.read 0xFFF)) = some (.addressOutOfRange, 0) := by decide
theorem test_ldVxMemI_M12 :
    (after (withMem (withV { start with I := 0x300 } [(3, 0x99)]) 0x300 [2, 5, 4, 0x77]) 0xF265).map
      (fun t => (t.V.toList.take 4, t.I)) = some ([2, 5, 4, 0x99], 0x300) := by decide
theorem test_ldVxMemI_M13_font :
    (after start 0xFF65).map (fun t => t.V.toList) =
      some [0xF0, 0x90, 0x90, 0x90, 0xF0, 0x20, 0x60, 0x20, 0x20, 0x70, 0xF0, 0x10, 0xF0, 0x80, 0xF0, 0xF0] := by
  decide
theorem test_ldFVx_M15 : (after (withV start [(6, 0x1A)]) 0xF629).map (fun t => t.I) = some 0x032 := by decide

/-! ### Display (vectors V1 to V12) -/

theorem test_drwVxVyN_V1_wraps :
    (after (withMem (withV { start with I := 0x20C } [(0, 62), (1, 31)]) 0x20C [0xC3, 0x81]) 0xD012).map
      (fun t => (litExactly t.disp [(62, 31), (63, 31), (4, 31), (5, 31), (62, 0), (5, 0)], t.getV VF)) =
      some (true, 0) := by decide +kernel
theorem test_drwVxVyN_V8_operands_before_flag :
    (after (withMem (withV { start with I := 0x300 } [(15, 3)]) 0x300 [0x80]) 0xDFF1).map
      (fun t => (litExactly t.disp [(3, 3)], t.getV VF)) = some (true, 0) := by decide +kernel
theorem test_cls_V11 :
    (after (withV { start with disp := Disp.toggle start.disp 3 4 } [(15, 1)]) 0x00E0).map
      (fun t => (litExactly t.disp [], t.getV VF, t.pc)) = some (true, 1, 0x202) := by decide +kernel

/-! ### Keypad (vectors Y1 to Y10) -/

theorem test_ldVxK_Y1_waits :
    regsAfter (withV { start with pc := 0x206 } [(2, 0x55)]) 0xF20A [2] = some ([0x55], 0, 0x206) := by decide
theorem test_ldVxK_Y2 :
    regsAfter (withDraw (withV { start with pc := 0x206 } [(2, 0x55)]) 0 (some 7) 0) 0xF20A [2] =
      some ([7], 0, 0x208) := by decide
theorem test_skpVx_Y3 :
    pcAfter (withDraw (withV { start with pc := 0x208 } [(2, 7)]) 0 (some 7) 0) 0xE29E = some 0x20C := by decide
theorem test_skpVx_Y8_whole_byte :
    pcAfter (withDraw (withV { start with pc := 0x208 } [(2, 0x17)]) 0 (some 7) 0) 0xE29E = some 0x20A := by decide
theorem test_sknpVx_Y6 :
    pcAfter (withDraw (withV { start with pc := 0x208 } [(2, 7)]) 0 (some 7) 0) 0xE2A1 = some 0x20A := by decide
theorem test_sknpVx_Y7 : pcAfter (withV { start with pc := 0x208 } [(2, 7)]) 0xE2A1 = some 0x20C := by decide

/-! ### Faults of the fetch and the halted state (vectors F1 to F9) -/

/-- F1: the first step from the bare reset state meets the empty ROM. -/
theorem test_step_F1_empty_rom :
    ∃ t, step State.reset = .next t ∧ t.fault = ⟨true, .unsupportedInstruction, 0x200, 0⟩ := ⟨_, rfl, by decide⟩
theorem test_step_F5_F6_order :
    (∃ t, step { start with pc := 0xFFF } = .next t ∧ t.fault = ⟨true, .misalignedFetch, 0xFFF, 0⟩) ∧
    (∃ t, step { start with pc := 0x1000 } = .next t ∧ t.fault = ⟨true, .addressOutOfRange, 0x1000, 0⟩) :=
  ⟨⟨_, rfl, by decide⟩, ⟨_, rfl, by decide⟩⟩
theorem test_step_F8_last_word : pcAfter { start with pc := 0xFFE } 0x6A01 = some 0x1000 := by decide
theorem test_step_F9_halted :
    step (start.raise .unsupportedInstruction 0x0123) = .fault (.halted .unsupportedInstruction) := rfl

/-! ### A state and operands that meet the hypotheses of each statement that has some -/

/-- A running state whose `pc` is 0x300, with a call to 0x20A below it on the stack. -/
def called : State := { start with pc := 0x300, stack := [0x20A] }

theorem called_inv : Inv called where
  memCanonical := rfl
  stackBounded := by decide
  stackCalls := by
    intro a h
    obtain rfl : a = 0x20A := List.mem_singleton.mp h
    decide
  pcBounded := by decide
  timeNonneg := le_refl 0
  delayBounded := by norm_num [called, start, State.reset]
  soundBounded := by norm_num [called, start, State.reset]
  recordClear := fun _ => rfl
  recordPrecise := fun h => by cases h

theorem test_hyp_DecodeOfEncodeIsTheInstruction :
    (Instr.sysNnn 0x0E1).wellFormed = true ∧ (Instr.sysNnn 0x0EF).wellFormed = true ∧
      (Instr.drwVxVyN 15 0 15).wellFormed = true := by decide
theorem test_hyp_EncodeOfDecodeIsTheWord :
    decode 0x0000 = some (.sysNnn 0) ∧ decode 0x9FF0 = some (.sneVxVy 15 15) := by decide
theorem test_hyp_TableOverlapsOnlyTwice :
    (∃ r q : Row, dispatchTable[15]? = some r ∧ dispatchTable[34]? = some q) ∧
      ∃ r q : Row, dispatchTable[0]? = some r ∧ dispatchTable[30]? = some q :=
  ⟨⟨_, _, rfl, rfl⟩, _, _, rfl, rfl⟩
theorem test_hyp_CompiledPatternMatchesByNibble :
    compilePattern ['E', 'x', '9', 'e'] = some (0xE09E, 0xF0FF) := by decide
theorem test_hyp_JumpAbsolute : (0xFFF : Addr).getLsbD 0 = true := by decide
theorem test_hyp_JumpPlusV0 :
    (∃ t, exec (.jpV0Nnn 0xFFF) start = .next t ∧ t.pc.toNat % 2 = 1) ∧
      ∃ t, exec (.jpV0Nnn 0xFFF) (withV start [(0, 1)]) = .next t ∧ t.pc.toNat % 2 = 0 ∧
        0x1000 ≤ t.pc.toNat :=
  ⟨⟨_, rfl, by decide⟩, _, rfl, by decide⟩
theorem test_hyp_CallPushesItsAddress :
    (withDepth start 15).stack.length < Config.stackDepth ∧
      Config.stackDepth ≤ (withDepth start 16).stack.length := by decide
theorem test_hyp_ReturnResumesAfterTheCall : called.stack = 0x20A :: [] ∧ start.stack = [] := by decide
theorem test_hyp_NativeCallFaults : (0x0E1 : Addr) ≠ 0x0E0 ∧ (0x0E1 : Addr) ≠ 0x0EE := by decide
theorem test_hyp_CallThenReturn :
    ∃ t, exec (.callNnn 0x300) (withDepth start 15) = .next t ∧
      ({ start with stack := t.stack } : State).stack = t.stack := ⟨_, rfl, rfl⟩
/-- The word after the skip differs between the two memories. -/
theorem test_hyp_SkippedWordIsNotRead :
    ∃ t, (withMem start 0x200 [0x31, 0x00]).wordAtPc = 0x3100 ∧
      decode 0x3100 = some (.seVxNn 1 0) ∧ (Instr.seVxNn 1 0).pcClass = .skip ∧
      (withMem start 0x200 [0x31, 0x00, 0xFF, 0xFF]).wordAtPc = 0x3100 ∧
      step (withMem start 0x200 [0x31, 0x00]) = .next t :=
  ⟨_, by decide, by decide, rfl, by decide, rfl⟩
theorem test_hyp_DelayTimerRead :
    ({ start with dtTarget := 255 } : State).dtTarget ≤
      ({ start with dtTarget := 255 } : State).port.now + 255 := by decide +kernel
theorem test_hyp_TimerCountsDown :
    (0 : Rat) ≤ 1 ∧ (1 : Rat) ≤ 3 / 2 ∧ ((2 : Byte).toNat : Rat) - 1 / 2 ≤ 3 / 2 - 0 := by decide +kernel
theorem test_hyp_StoreDecimalDigits :
    ({ start with I := 0xFFD } : State).addrAtI 2 ≤ 0xFFF ∧
      0xFFF < ({ start with I := 0xFFE } : State).addrAtI 2 := by decide
theorem test_hyp_StoreRegisters :
    ({ start with I := 0xFF0 } : State).addrAtI (15 : RegIdx).val ≤ 0xFFF ∧
      0xFFF < ({ start with I := 0xFF1 } : State).addrAtI (15 : RegIdx).val := by decide
theorem test_hyp_LoadRegisters :
    ({ start with I := 0xFFF } : State).addrAtI (0 : RegIdx).val ≤ 0xFFF ∧
      0xFFF < ({ start with I := 0xFFF } : State).addrAtI (1 : RegIdx).val := by decide
theorem test_hyp_StoreThenLoadRestores :
    ({ start with I := 0xFF0 } : State).addrAtI (15 : RegIdx).val ≤ 0xFFF ∧
      ∃ t, exec (.ldMemIVx 15) { start with I := 0xFF0 } = .next t ∧
        (withV t [(0, 9)]).mem = t.mem ∧ (withV t [(0, 9)]).I = 0xFF0 :=
  ⟨by decide, _, rfl, rfl, rfl⟩
theorem test_hyp_StoredWordIsFetchedNext :
    1 ≤ (1 : RegIdx).val ∧ ({ start with pc := 0xFFC, I := 0xFFE } : State).fetchable ∧
      (0xFFE : Addr).toNat = (0xFFC : Pc).toNat + 2 ∧
      ({ start with pc := 0xFFC, I := 0xFFE } : State).addrAtI (1 : RegIdx).val ≤ 0xFFF :=
  ⟨by decide, ⟨by decide, by decide⟩, by decide, by decide⟩
theorem test_hyp_CanonicalMemoryIsUnique :
    Memory.wf [(0x000, 0xF1), (0xFFF, 1)] = true ∧
      ∀ a < Config.memSize, Memory.read [(0x000, 0xF1), (0xFFF, 1)] a =
        Memory.read (Memory.write [(0x000, 0xF1)] 0xFFF 1) a :=
  ⟨by decide, fun _ _ => rfl⟩
/-- Drawn: no row at the top of memory, fifteen rows ending at 0xFFF. Faulting: one row too many. -/
theorem test_hyp_DrawSprite :
    ((0 : Nibble) = 0 ∧ ({ start with I := 0xFF1 } : State).addrAtI ((15 : Nibble).toNat - 1) ≤ 0xFFF) ∧
      ((15 : Nibble) ≠ 0 ∧ 0xFFF < ({ start with I := 0xFF2 } : State).addrAtI ((15 : Nibble).toNat - 1)) := by
  decide
/-- Where the sprite lands on a pixel that is on, and where it lands on none. -/
theorem test_hyp_DrawSprite_collision :
    (∃ c r, SpriteLandsOn 63 31 1 (fun _ => 0x40) c r ∧
      Disp.pixel (Disp.toggle Disp.clear 0 31) c r = true) ∧
    ¬ ∃ c r, SpriteLandsOn 63 31 1 (fun _ => 0x40) c r ∧ Disp.pixel Disp.clear c r = true := by
  refine ⟨⟨0, 31, ⟨0, by decide, 1, by decide, by decide, by decide, by decide⟩, by decide⟩, ?_⟩
  rintro ⟨c, r, -, h⟩
  simp [Disp.pixel, Disp.clear] at h
theorem test_hyp_BlitTwiceRestores : (List.replicate 15 (0x81 : Byte)).length ≤ 15 := by decide
theorem test_hyp_CongruentOriginsAgree : 70 % 64 = 6 % 64 ∧ 40 % 32 = 8 % 32 := by decide
theorem test_hyp_WaitForKey :
    (withDraw start 0 (some 15) 0).sample.port.key = some 15 ∧ start.sample.port.key = none := by decide
/-- The key equals the register, another key, no key. -/
theorem test_hyp_SkipOnKey :
    (∃ k, (withDraw (withV start [(2, 15)]) 0 (some 15) 0).sample.port.key = some k ∧
      k.val = ((withV start [(2, 15)]).getV 2).toNat) ∧
    (∀ k, (withDraw (withV start [(2, 0x1F)]) 0 (some 15) 0).sample.port.key = some k →
      k.val ≠ ((withV start [(2, 0x1F)]).getV 2).toNat) ∧ start.sample.port.key = none :=
  ⟨⟨15, by decide, by decide⟩, by decide, by decide⟩
/-- The last word of memory is fetched and run. -/
theorem test_hyp_StepRunsTheDecodedInstruction :
    (withMem { start with pc := 0xFFE } 0xFFE [0x6A, 0x01]).running ∧
      (withMem { start with pc := 0xFFE } 0xFFE [0x6A, 0x01]).fetchable ∧
      decode (withMem { start with pc := 0xFFE } 0xFFE [0x6A, 0x01]).wordAtPc = some (.ldVxNn 10 1) :=
  ⟨rfl, ⟨by decide, by decide⟩, by decide⟩
/-- A scripted draw, and none. -/
theorem test_hyp_EveryStepSamplesOneDraw :
    (∃ t d ds, step (withDraw start 1 (some 3) 9) = .next t ∧
      (withDraw start 1 (some 3) 9).script = d :: ds ∧ 0 ≤ (withDraw start 1 (some 3) 9).nextDraw.elapsed) ∧
    ∃ t, step State.reset = .next t ∧ State.reset.script = [] :=
  ⟨⟨_, _, _, rfl, rfl, by decide +kernel⟩, _, rfl, rfl⟩
theorem test_hyp_FetchFaultsInOrder :
    ({ start with pc := 0x1001 } : State).running ∧ (0x1001 : Pc).toNat % 2 = 1 ∧
      (0x1000 : Pc).toNat % 2 = 0 ∧ 0x1000 ≤ (0x1000 : Pc).toNat := ⟨rfl, by decide⟩
theorem test_hyp_UnsupportedWordFaults :
    (withMem start 0x200 [0xFF, 0xFF]).running ∧ (withMem start 0x200 [0xFF, 0xFF]).fetchable ∧
      decode (withMem start 0x200 [0xFF, 0xFF]).wordAtPc = none ∧
      ∃ nnn, decode (withMem start 0x200 [0x0F, 0xFF]).wordAtPc = some (.sysNnn nnn) :=
  ⟨rfl, ⟨by decide, by decide⟩, by decide, 0xFFF, by decide⟩
theorem test_hyp_StepAnswersExactlyWhileRunning :
    start.running ∧ (start.raise .stackOverflow 0x2300).fault.halted = true := ⟨rfl, rfl⟩
/-- A fault with the fetch completed, and one with the fetch not completed. -/
theorem test_hyp_FaultsArePrecise :
    (start.running ∧ start.fetchable ∧ ∃ t, step start = .next t ∧ t.fault.halted = true) ∧
    (({ start with pc := 0x203 } : State).running ∧ ¬ ({ start with pc := 0x203 } : State).fetchable ∧
      ∃ t, step { start with pc := 0x203 } = .next t ∧ t.fault.halted = true) :=
  ⟨⟨rfl, ⟨by decide, by decide⟩, _, rfl, by decide⟩,
    ⟨rfl, fun h => absurd h.1 (by decide), _, rfl, by decide⟩⟩
/-- A step that does not fault, and one whose handler does. -/
theorem test_hyp_FaultsExactlyOnTheHazards :
    (∃ t, step (withMem called 0x300 [0x00, 0xEE]) = .next t ∧ t.fault.halted = false) ∧
      ∃ t, step (withMem start 0x200 [0x00, 0xEE]) = .next t ∧ t.fault.halted = true :=
  ⟨⟨_, rfl, by decide⟩, _, rfl, by decide⟩
theorem test_hyp_HandlersRaiseOneKindOfFault :
    (∃ t, exec (.callNnn 0x300) (withDepth start 16) = .next t ∧ t.fault.cause = .stackOverflow) ∧
      ∃ t, exec (.drwVxVyN 0 1 2) { start with I := 0xFFF } = .next t ∧
        t.fault.cause = .addressOutOfRange := ⟨⟨_, rfl, by decide⟩, _, rfl, by decide⟩
theorem test_hyp_PcMovesByClass :
    (∃ t, exec .ret called = .next t ∧ t.fault.halted = false) ∧
      ∃ t, exec .ret start = .next t ∧ t.fault.halted = true := ⟨⟨_, rfl, by decide⟩, _, rfl, by decide⟩
/-- One instruction for each clause: a register, I, the stack, memory, the record. -/
theorem test_hyp_EachElementHasItsWriters :
    (∃ t, exec (.ldVxNn 15 1) start = .next t ∧ t.getV 15 ≠ start.getV 15) ∧
    (∃ t, exec (.ldINnn 1) start = .next t ∧ t.I ≠ start.I) ∧
    (∃ t, exec .ret called = .next t ∧ t.stack ≠ called.stack) ∧
    (∃ t, exec (.ldBVx 0) start = .next t ∧ t.mem ≠ start.mem) ∧
    ∃ t, exec (.sysNnn 0) start = .next t ∧ t.fault ≠ start.fault :=
  ⟨⟨_, rfl, by decide⟩, ⟨_, rfl, by decide⟩, ⟨_, rfl, by decide⟩, ⟨_, rfl, by decide⟩, _, rfl, by decide⟩
/-- The same for the timers and the display. -/
theorem test_hyp_EachElementHasItsWriters_timers_display :
    (∃ t, exec (.ldDtVx 0) (withV start [(0, 1)]) = .next t ∧ t.dtTarget ≠ start.dtTarget) ∧
    (∃ t, exec (.ldStVx 0) (withV start [(0, 1)]) = .next t ∧ t.stTarget ≠ start.stTarget) ∧
    ∃ t, exec (.drwVxVyN 0 0 1) start = .next t ∧ t.disp.pixel 0 0 ≠ start.disp.pixel 0 0 :=
  ⟨⟨_, rfl, by decide +kernel⟩, ⟨_, rfl, by decide +kernel⟩, _, rfl, by decide⟩
theorem test_hyp_UnconsultedInputsHaveNoEffect : ¬ ConsultsInputs (.ldVxMemI 3) := by
  rintro (⟨_, _, h⟩ | ⟨_, h | h | h⟩ | ⟨_, h | h | h⟩) <;> cases h
theorem test_hyp_SoundTimerIsUnobservable :
    ∃ t, step (withMem start 0x200 [0xF3, 0x18]) = .next t := ⟨_, rfl⟩
theorem test_hyp_SelfJumpStays : (withMem start 0x200 [0x12, 0x00]).atSelfJump :=
  ⟨rfl, ⟨by decide, by decide⟩, 0x200, by decide, by decide⟩
theorem test_hyp_ResetEstablishesTheState :
    (List.replicate 3584 (0 : Byte)).length ≤ Config.romMax ∧
      Config.romMax < (List.replicate 3585 (0 : Byte)).length := by
  simp only [List.length_replicate, Config.romMax]; decide
/-- A reset at the latest sample, one below it, and one below 0. -/
theorem test_hyp_ResetEstablishesTheState_time :
    (0 : Rat) ≤ 5 ∧ (sampledAt 5).port.now ≤ 5 ∧ (4 : Rat) < (sampledAt 5).port.now ∧ (-1 : Rat) < 0 := by
  decide +kernel
theorem test_assertReset_time :
    ((sampledAt 5).assertReset [] 4 = .refused .timeBeforeSample) ∧
      (start.assertReset [] (-1) = .refused .timeBeforeSample) ∧
      ∃ t, (sampledAt 5).assertReset [] 5 = .next t ∧ t.port.now = 5 :=
  ⟨assertReset_refused _ _ (by decide +kernel), assertReset_refused _ _ (by decide +kernel),
    assertReset_accepted _ _ (by decide +kernel)⟩
theorem test_hyp_ResetSatisfiesInv :
    ∃ t, (sampledAt 5).assertReset [] 5 = .next t ∧ t.port.now = 5 :=
  assertReset_accepted _ _ (by decide +kernel)
theorem test_hyp_InvKeptByEveryStep : Inv called ∧ ∃ t, step called = .next t := ⟨called_inv, _, rfl⟩
theorem called_withMem_inv (bs : List Byte) (h : Memory.wf (withMem called 0x300 bs).mem = true) :
    Inv (withMem called 0x300 bs) := { called_inv with memCanonical := h }
/-- The WAIT clause of the next statement: a key at the step, and none. -/
theorem test_hyp_PcNeverWraps_wait :
    (Inv (withMem (withDraw called 0 (some 7) 0) 0x300 [0xF2, 0x0A]) ∧
      decode (withMem (withDraw called 0 (some 7) 0) 0x300 [0xF2, 0x0A]).wordAtPc = some (.ldVxK 2) ∧
      ∃ t, step (withMem (withDraw called 0 (some 7) 0) 0x300 [0xF2, 0x0A]) = .next t ∧
        t.fault.halted = false ∧ t.port.key ≠ none) ∧
    (Inv (withMem called 0x300 [0xF2, 0x0A]) ∧
      decode (withMem called 0x300 [0xF2, 0x0A]).wordAtPc = some (.ldVxK 2) ∧
      ∃ t, step (withMem called 0x300 [0xF2, 0x0A]) = .next t ∧ t.fault.halted = false ∧ t.port.key = none) :=
  ⟨⟨{ called_inv with memCanonical := rfl }, by decide, _, rfl, by decide⟩,
    ⟨called_withMem_inv _ rfl, by decide, _, rfl, by decide⟩⟩
/-- One instruction for each clause: SEQ, SKIP, RET. -/
theorem test_hyp_PcNeverWraps :
    (Inv (withMem called 0x300 [0x60, 0x01]) ∧ decode (withMem called 0x300 [0x60, 0x01]).wordAtPc =
      some (.ldVxNn 0 1) ∧ ∃ t, step (withMem called 0x300 [0x60, 0x01]) = .next t ∧ t.fault.halted = false) ∧
    (Inv (withMem called 0x300 [0x30, 0x00]) ∧ decode (withMem called 0x300 [0x30, 0x00]).wordAtPc =
      some (.seVxNn 0 0) ∧ ∃ t, step (withMem called 0x300 [0x30, 0x00]) = .next t ∧ t.fault.halted = false) ∧
    (Inv (withMem called 0x300 [0x00, 0xEE]) ∧ decode (withMem called 0x300 [0x00, 0xEE]).wordAtPc =
      some .ret ∧ called.stack = 0x20A :: [] ∧
      ∃ t, step (withMem called 0x300 [0x00, 0xEE]) = .next t ∧ t.fault.halted = false) :=
  ⟨⟨called_withMem_inv _ rfl, by decide, _, rfl, by decide⟩,
    ⟨called_withMem_inv _ rfl, by decide, _, rfl, by decide⟩,
    ⟨called_withMem_inv _ rfl, by decide, rfl, _, rfl, by decide⟩⟩
theorem test_hyp_TimersReadAByte :
    Inv { called with dtTarget := 255, stTarget := 255 } :=
  { called_inv with
    delayBounded := by norm_num [called, start, State.reset]
    soundBounded := by norm_num [called, start, State.reset] }

end Sys2Proof.Tests
end

namespace Sys2Proof.Machine

/-! ### Which outcomes a handler and a step answer -/

/-- No handler stops or refuses: a fault it takes is a next state too (R268; log 3). -/
theorem exec_answers_next (i : Instr) (s : State) : ∃ t, exec i s = .next t := by
  obtain ⟨t, completes, -⟩ | ⟨c, -, faults⟩ := exec_spec i s
  · exact ⟨t, completes⟩
  · exact ⟨s.raiseBy c i, faults⟩

theorem step_answers_next_of_running (s : State) (h : s.running) : ∃ t, step s = .next t := by
  obtain ⟨-, misaligned⟩ | ⟨-, -, outOfRange⟩ | ⟨-, -, unsupported⟩ | ⟨-, i, -, handled⟩ :=
    step_spec s h
  · exact ⟨_, misaligned⟩
  · exact ⟨_, outOfRange⟩
  · exact ⟨_, unsupported⟩
  · rw [handled]
    exact exec_answers_next i s.sample

/-- The test of `fault.halted` comes before anything else in a step (R120, R125; log 3). -/
theorem step_answers_fault_of_halted (s : State) (h : s.fault.halted = true) :
    step s = .fault (.halted s.fault.cause) := by
  rw [step, if_pos h]

/-- Settles O45: a running machine meets one of the four cases of `step_spec`, each a next state; a
halted one stops at the first test of `step`. -/
theorem stepAnswersExactlyWhileRunning : Obligations.StepAnswersExactlyWhileRunning := fun s =>
  ⟨step_answers_next_of_running s, step_answers_fault_of_halted s⟩

end Sys2Proof.Machine

namespace Sys2Proof.Machine

/-! ### What a handler can do, element by element -/

/-- Everything a handler can do, each way with the elements it writes and with what the writes rest on
(R20, R122, R268). The second index is the instruction, the third the next state. -/
inductive Effect (s : State) : Instr → State → Prop
  /-- General registers alone are written: class SEQ, or FX0A with a key sampled. -/
  | registers {i : Instr} (V : Vector Byte 16)
      (unwritten : ∀ r, ¬ MayWriteV i r → ({ s with V := V } : State).getV r = s.getV r)
      (advances : i.pcClass = .seq ∨ i.pcClass = .wait ∧ s.port.key ≠ none) :
      Effect s i ({ s with V := V } : State).next2
  | address {i : Instr} (a : Addr)
      (writer : (∃ nnn, i = .ldINnn nnn) ∨ ∃ x, i = .addIVx x ∨ i = .ldFVx x) :
      Effect s i (s.setI a).next2
  | store {i : Instr} (bs : List Byte) (writer : ∃ x, i = .ldBVx x ∨ i = .ldMemIVx x)
      (inRange : bs = [] ∨ s.addrAtI 0 + bs.length ≤ Config.memSize) :
      Effect s i ({ s with mem := s.mem.writeBytes (s.addrAtI 0) bs } : State).next2
  | delay (x : RegIdx) : Effect s (.ldDtVx x) (s.setDelay (s.getV x)).next2
  | sound (x : RegIdx) : Effect s (.ldStVx x) (s.setSound (s.getV x)).next2
  | draw (x y : RegIdx) (n : Nibble) (rows : List Byte) :
      Effect s (.drwVxVyN x y n) (s.draw (s.getV x).toNat (s.getV y).toNat rows).next2
  | clear : Effect s .cls ({ s with disp := Disp.clear } : State).next2
  | skip {i : Instr} (cond : Bool) (skips : i.pcClass = .skip) : Effect s i (s.skipIf cond)
  | jump (nnn : Addr) : Effect s (.jpNnn nnn) (s.setPc (targetOf nnn))
  | jumpPlusV0 (nnn : Addr) : Effect s (.jpV0Nnn nnn) (s.setPc (s.targetPlusV0 nnn))
  | call (nnn : Addr) (room : s.stack.length < Config.stackDepth) :
      Effect s (.callNnn nnn)
        (({ s with stack := s.pc :: s.stack } : State).setPc (targetOf nnn))
  | ret (v : Pc) (rest : List Pc) (popped : s.stack = v :: rest) :
      Effect s .ret (({ s with stack := rest } : State).setPc (v + 2))
  /-- FX0A with no key sampled changes nothing, so the next step tries again. -/
  | wait (x : RegIdx) (noKey : s.port.key = none) : Effect s (.ldVxK x) s
  | fault {i : Instr} (c : Cause) (raises : HandlerCause i c) : Effect s i (s.raiseBy c i)

section
variable {s : State} {i : Instr} {x : RegIdx}

theorem Effect.of_setV (b : Byte) (writesX : MayWriteV i x)
    (advances : i.pcClass = .seq ∨ i.pcClass = .wait ∧ s.port.key ≠ none) :
    Effect s i (s.setV x b).next2 := by
  refine .registers _ (fun r unwritten => ?_) advances
  have notX : r ≠ x := fun e => unwritten (e ▸ writesX)
  exact (s.getV_setV x r b).trans (if_neg notX)

theorem Effect.of_setResultThenFlag (b f : Byte) (writesX : MayWriteV i x) (writesVF : MayWriteV i VF)
    (seq : i.pcClass = .seq) : Effect s i (s.setResultThenFlag x b f).next2 := by
  refine .registers _ (fun r unwritten => ?_) (.inl seq)
  have notX : r ≠ x := fun e => unwritten (e ▸ writesX)
  have notVF : r ≠ VF := fun e => unwritten (e ▸ writesVF)
  exact (s.getV_setResultThenFlag x r b f).trans ((if_neg notVF).trans (if_neg notX))

theorem Effect.of_setFlagThenResult (b f : Byte) (writesX : MayWriteV i x) (writesVF : MayWriteV i VF)
    (seq : i.pcClass = .seq) : Effect s i (s.setFlagThenResult x b f).next2 := by
  refine .registers _ (fun r unwritten => ?_) (.inl seq)
  have notX : r ≠ x := fun e => unwritten (e ▸ writesX)
  have notVF : r ≠ VF := fun e => unwritten (e ▸ writesVF)
  exact (s.getV_setFlagThenResult x r b f).trans ((if_neg notX).trans (if_neg notVF))

/-- FX65 writes no register beyond the bytes it loads. -/
theorem Effect.of_setRegs (bs : List Byte) (loads : bs.length = x.val + 1) :
    Effect s (.ldVxMemI x) (s.setRegs bs).next2 := by
  refine .registers _ (fun r (unwritten : ¬ r.val ≤ x.val) => ?_) (.inl rfl)
  exact (s.getV_setRegs bs r).trans (dif_neg (by omega))

end

theorem exec_call_of_room {nnn : Addr} {s : State} (room : s.stack.length < Config.stackDepth) :
    exec (.callNnn nnn) s =
      .next (({ s with stack := s.pc :: s.stack } : State).setPc (targetOf nnn)) := by
  obtain ⟨pushed, -⟩ | ⟨-, full⟩ := s.push_spec s.pc
  · simp only [exec, execCallNnn, pushed]
  · exact absurd room (Nat.not_lt.mpr full)

theorem exec_ret_of_cons {s : State} {v : Pc} {rest : List Pc} (top : s.stack = v :: rest) :
    exec .ret s = .next (({ s with stack := rest } : State).setPc (v + 2)) := by
  obtain ⟨v', rest', stack_eq, popped⟩ | ⟨empty, -⟩ := s.pop_spec
  · obtain ⟨rfl, rfl⟩ := List.cons.inj (stack_eq.symm.trans top)
    simp only [exec, execRet, popped]
  · cases empty.symm.trans top

/-- Every handler answers a next state that is one of the effects. -/
theorem exec_effect (i : Instr) (s : State) : ∃ t, exec i s = .next t ∧ Effect s i t := by
  cases i with
  | ldVxNn | addVxNn | ldVxVy | orVxVy | andVxVy | xorVxVy | rndVxNn | ldVxDt =>
    exact ⟨_, rfl, .of_setV _ rfl (.inl rfl)⟩
  | addVxVy | subVxVy | subnVxVy =>
    exact ⟨_, rfl, .of_setResultThenFlag _ _ (.inl rfl) (.inr rfl) rfl⟩
  | shrVxVy | shlVxVy => exact ⟨_, rfl, .of_setFlagThenResult _ _ (.inl rfl) (.inr rfl) rfl⟩
  | jpNnn nnn => exact ⟨_, rfl, .jump nnn⟩
  | jpV0Nnn nnn => exact ⟨_, rfl, .jumpPlusV0 nnn⟩
  | callNnn nnn =>
    obtain ⟨-, room⟩ | ⟨full, -⟩ := s.push_spec s.pc
    · exact ⟨_, exec_call_of_room room, .call nnn room⟩
    · exact ⟨_, by simp only [exec, execCallNnn, full], .fault .stackOverflow ⟨nnn, rfl⟩⟩
  | ret =>
    obtain ⟨v, rest, top, -⟩ | ⟨-, empty⟩ := s.pop_spec
    · exact ⟨_, exec_ret_of_cons top, .ret v rest top⟩
    · exact ⟨_, by simp only [exec, execRet, empty], .fault .stackUnderflow rfl⟩
  | seVxNn | sneVxNn | seVxVy | sneVxVy | skpVx | sknpVx => exact ⟨_, rfl, .skip _ rfl⟩
  | ldDtVx x => exact ⟨_, rfl, .delay x⟩
  | ldStVx x => exact ⟨_, rfl, .sound x⟩
  | ldINnn nnn => exact ⟨_, rfl, .address _ (.inl ⟨nnn, rfl⟩)⟩
  | addIVx x => exact ⟨_, rfl, .address _ (.inr ⟨x, .inl rfl⟩)⟩
  | ldFVx x => exact ⟨_, rfl, .address _ (.inr ⟨x, .inr rfl⟩)⟩
  | ldBVx x =>
    obtain ⟨stored, inRange⟩ | ⟨outOfRange, -⟩ :=
      s.memWrite_spec (s.addrAtI 0) (decimalDigits (s.getV x))
    · exact ⟨_, by simp only [exec, execLdBVx, stored], .store _ ⟨x, .inl rfl⟩ inRange⟩
    · exact ⟨_, by simp only [exec, execLdBVx, outOfRange],
        .fault .addressOutOfRange (.inl ⟨x, .inl rfl⟩)⟩
  | ldMemIVx x =>
    obtain ⟨stored, inRange⟩ | ⟨outOfRange, -⟩ := s.memWrite_spec (s.addrAtI 0) (s.regsUpTo x)
    · exact ⟨_, by simp only [exec, execLdMemIVx, stored], .store _ ⟨x, .inr rfl⟩ inRange⟩
    · exact ⟨_, by simp only [exec, execLdMemIVx, outOfRange],
        .fault .addressOutOfRange (.inl ⟨x, .inr (.inl rfl)⟩)⟩
  | ldVxMemI x =>
    obtain ⟨loaded, -⟩ | ⟨outOfRange, -⟩ := s.memRead_spec (s.addrAtI 0) (x.val + 1)
    · exact ⟨_, by simp only [exec, execLdVxMemI, loaded],
        .of_setRegs (s.mem.readBytes (s.addrAtI 0) (x.val + 1)) (Memory.length_readBytes _ _ _)⟩
    · exact ⟨_, by simp only [exec, execLdVxMemI, outOfRange],
        .fault .addressOutOfRange (.inl ⟨x, .inr (.inr rfl)⟩)⟩
  | drwVxVyN x y n =>
    obtain ⟨rows, -⟩ | ⟨outOfRange, -⟩ := s.memRead_spec (s.addrAtI 0) n.toNat
    · exact ⟨_, by simp only [exec, execDrwVxVyN, rows],
        .draw x y n (s.mem.readBytes (s.addrAtI 0) n.toNat)⟩
    · exact ⟨_, by simp only [exec, execDrwVxVyN, outOfRange],
        .fault .addressOutOfRange (.inr ⟨x, y, n, rfl⟩)⟩
  | cls => exact ⟨_, rfl, .clear⟩
  | ldVxK x =>
    cases key : s.port.key with
    | none => exact ⟨_, by simp only [exec, execLdVxK, key], .wait x key⟩
    | some k =>
      exact ⟨_, by simp only [exec, execLdVxK, key],
        .of_setV (BitVec.ofNat 8 k.val) rfl (.inr ⟨rfl, by rw [key]; exact Option.some_ne_none k⟩)⟩
  | sysNnn nnn => exact ⟨_, rfl, .fault .unsupportedInstruction ⟨nnn, rfl⟩⟩

theorem effect_of_exec {i : Instr} {s t : State} (executed : exec i s = .next t) : Effect s i t := by
  obtain ⟨u, executed', effect⟩ := exec_effect i s
  obtain rfl : u = t := Host.Outcome.next.inj (executed'.symm.trans executed)
  exact effect

theorem HandlerCause.ne_none {i : Instr} {c : Cause} (raises : HandlerCause i c) : c ≠ .none := by
  rintro rfl
  exact raises

theorem running_of_step_next {s t : State} (stepped : step s = .next t) : s.running := by
  refine Bool.eq_false_iff.mpr fun halted => ?_
  rw [step_answers_fault_of_halted s halted] at stepped
  cases stepped

/-- Every step with a next state is, on the state with the inputs sampled, a fault taken before the
handler, or an effect of the instruction fetched (R120). -/
theorem step_effect {s t : State} (stepped : step s = .next t) :
    (∃ c w, c ≠ Cause.none ∧ t = s.sample.raise c w) ∨
      (s.fetchable ∧ ∃ i, decode s.wordAtPc = some i ∧ Effect s.sample i t) := by
  obtain ⟨-, faults⟩ | ⟨-, -, faults⟩ | ⟨-, -, faults⟩ | ⟨fetched, i, decoded, handled⟩ :=
    step_spec s (running_of_step_next stepped)
  · exact .inl ⟨.misalignedFetch, _, by decide, Host.Outcome.next.inj (stepped.symm.trans faults)⟩
  · exact .inl ⟨.addressOutOfRange, _, by decide, Host.Outcome.next.inj (stepped.symm.trans faults)⟩
  · exact .inl ⟨.unsupportedInstruction, _, by decide,
      Host.Outcome.next.inj (stepped.symm.trans faults)⟩
  · exact .inr ⟨fetched, i, decoded, effect_of_exec (handled.symm.trans stepped)⟩

/-! ### The invariant, operation by operation -/

section
variable {s : State}

/-- The time base does not go back, so the targets stay within reach (R180, R181). -/
theorem Inv.sample (inv : Inv s) : Inv s.sample where
  __ := inv
  timeNonneg := add_nonneg inv.timeNonneg (advanceOf_nonneg s.nextDraw)
  delayBounded := by
    have advances := advanceOf_nonneg s.nextDraw
    have bounded := inv.delayBounded
    simp only [State.sample_dtTarget, State.sample_port]
    linarith
  soundBounded := by
    have advances := advanceOf_nonneg s.nextDraw
    have bounded := inv.soundBounded
    simp only [State.sample_stTarget, State.sample_port]
    linarith

theorem Inv.raise (inv : Inv s) {c : Cause} (w : Word) (cause : c ≠ .none) : Inv (s.raise c w) where
  __ := inv
  recordClear := fun running => by cases running
  recordPrecise := fun _ => ⟨cause, rfl⟩

theorem Inv.setPc (inv : Inv s) (running : s.running) {a : Pc} (bounded : a.toNat ≤ 0x10FE) :
    Inv (s.setPc a) where
  __ := inv
  pcBounded := bounded
  recordPrecise := fun halted => by
    rw [State.setPc_fault, running] at halted
    cases halted

theorem timerTarget_le (now : Rat) (v : Byte) : timerTarget now v ≤ now + 255 := by
  have byte : (v.toNat : Rat) ≤ 255 := by exact_mod_cast Nat.le_of_lt_succ v.isLt
  exact add_le_add_right byte now

/-! ### Sums on `pc` that do not wrap (R25) -/

theorem toNat_pc_add_two {a : Pc} (h : a.toNat ≤ 0xFFE) : (a + 2).toNat = a.toNat + 2 := by
  have two : (2 : Pc).toNat = 2 := rfl
  rw [BitVec.toNat_add, two_pow_pcBits, two]
  omega

theorem toNat_pc_add_four {a : Pc} (h : a.toNat ≤ 0xFFE) : (a + 4).toNat = a.toNat + 4 := by
  have four : (4 : Pc).toNat = 4 := rfl
  rw [BitVec.toNat_add, two_pow_pcBits, four]
  omega

@[simp] theorem toNat_targetOf (nnn : Addr) : (targetOf nnn).toNat = nnn.toNat :=
  BitVec.toNat_setWidth_of_le (by decide)

theorem State.toNat_targetPlusV0 (s : State) (nnn : Addr) :
    (s.targetPlusV0 nnn).toNat = nnn.toNat + (s.getV 0).toNat := by
  have nnn_lt := nnn.isLt
  have v0_lt := (s.getV 0).isLt
  rw [State.targetPlusV0, BitVec.toNat_add, toNat_targetOf,
    BitVec.toNat_setWidth_of_le (by decide), two_pow_pcBits]
  omega

/-! ### The invariant across a step -/

/-- After a fetch at `pc` the next word's address is in bounds. -/
theorem Inv.next2 (inv : Inv s) (running : s.running) (fetched : s.fetchable) : Inv s.next2 := by
  have pc_le := fetched.2
  exact inv.setPc running ((toNat_pc_add_two pc_le).trans_le (by omega))

theorem Effect.inv {i : Instr} {t : State} (effect : Effect s i t) (inv : Inv s)
    (running : s.running) (fetched : s.fetchable) : Inv t := by
  have pc_le := fetched.2
  cases effect with
  | registers V => exact Inv.next2 (s := { s with V := V }) { inv with } running fetched
  | address a => exact Inv.next2 (s := s.setI a) { inv with } running fetched
  | store bs _ inRange =>
    have canonical := Memory.wf_writeBytes inv.memCanonical inRange
    exact Inv.next2 (s := { s with mem := s.mem.writeBytes (s.addrAtI 0) bs })
      { inv with memCanonical := canonical } running fetched
  | delay x =>
    exact Inv.next2 (s := s.setDelay (s.getV x))
      { inv with delayBounded := timerTarget_le _ _ } running fetched
  | sound x =>
    exact Inv.next2 (s := s.setSound (s.getV x))
      { inv with soundBounded := timerTarget_le _ _ } running fetched
  | draw x y n rows =>
    exact Inv.next2 (s := s.draw (s.getV x).toNat (s.getV y).toNat rows) { inv with } running fetched
  | clear => exact Inv.next2 (s := { s with disp := Disp.clear }) { inv with } running fetched
  | skip cond =>
    refine inv.setPc running ?_
    cases cond with
    | true => exact (toNat_pc_add_four pc_le).trans_le (by omega)
    | false => exact (toNat_pc_add_two pc_le).trans_le (by omega)
  | jump nnn =>
    have nnn_lt := nnn.isLt
    exact inv.setPc running ((toNat_targetOf nnn).trans_le (by omega))
  | jumpPlusV0 nnn =>
    have nnn_lt := nnn.isLt
    have v0_lt := (s.getV 0).isLt
    exact inv.setPc running ((s.toNat_targetPlusV0 nnn).trans_le (by omega))
  | call nnn room =>
    have nnn_lt := nnn.isLt
    have pushed : Inv { s with stack := s.pc :: s.stack } :=
      { inv with
        stackBounded := room
        stackCalls := List.forall_mem_cons.mpr ⟨fetched, inv.stackCalls⟩ }
    exact pushed.setPc running ((toNat_targetOf nnn).trans_le (by omega))
  | ret v rest popped =>
    obtain ⟨v_call, rest_calls⟩ := List.forall_mem_cons.mp (popped ▸ inv.stackCalls)
    have bounded : rest.length + 1 ≤ Config.stackDepth := by simpa [popped] using inv.stackBounded
    have dropped : Inv { s with stack := rest } :=
      { inv with stackBounded := Nat.le_of_succ_le bounded, stackCalls := rest_calls }
    exact dropped.setPc running ((toNat_pc_add_two v_call.2).trans_le (by omega))
  | wait => exact inv
  | fault c raises => exact inv.raise (encode i) raises.ne_none

end

/-- Settles O56: sampling keeps the invariant, and so does each fault and each effect of a handler that
a fetched instruction can have. -/
theorem invKeptByEveryStep : Obligations.InvKeptByEveryStep := by
  intro s t inv stepped
  have running : s.running := running_of_step_next stepped
  obtain ⟨c, w, cause, rfl⟩ | ⟨fetched, i, -, effect⟩ := step_effect stepped
  · exact inv.sample.raise w cause
  · exact effect.inv inv.sample running fetched

/-! ### Which effect writes which element -/

section
variable {s t : State} {i : Instr}

theorem Effect.mayWriteV (effect : Effect s i t) {r : RegIdx} (changed : t.getV r ≠ s.getV r) :
    MayWriteV i r := by
  cases effect with
  | registers V unwritten => exact by_contra fun unwritable => changed (unwritten r unwritable)
  | draw x y n rows =>
    by_contra notVF
    have drawn := s.getV_draw (s.getV x).toNat (s.getV y).toNat rows r
    exact changed (drawn.trans (if_neg notVF))
  | _ => exact absurd rfl changed

theorem Effect.writesI (effect : Effect s i t) (changed : t.I ≠ s.I) :
    (∃ nnn, i = .ldINnn nnn) ∨ ∃ x, i = .addIVx x ∨ i = .ldFVx x := by
  cases effect with
  | address a writer => exact writer
  | _ => exact absurd rfl changed

theorem Effect.writesStack (effect : Effect s i t) (changed : t.stack ≠ s.stack) :
    (∃ nnn, i = .callNnn nnn) ∨ i = .ret := by
  cases effect with
  | call nnn => exact .inl ⟨nnn, rfl⟩
  | ret => exact .inr rfl
  | _ => exact absurd rfl changed

theorem Effect.writesDtTarget (effect : Effect s i t) (changed : t.dtTarget ≠ s.dtTarget) :
    ∃ x, i = .ldDtVx x := by
  cases effect with
  | delay x => exact ⟨x, rfl⟩
  | _ => exact absurd rfl changed

theorem Effect.writesStTarget (effect : Effect s i t) (changed : t.stTarget ≠ s.stTarget) :
    ∃ x, i = .ldStVx x := by
  cases effect with
  | sound x => exact ⟨x, rfl⟩
  | _ => exact absurd rfl changed

theorem Effect.writesMem (effect : Effect s i t) (changed : t.mem ≠ s.mem) :
    ∃ x, i = .ldBVx x ∨ i = .ldMemIVx x := by
  cases effect with
  | store bs writer => exact writer
  | _ => exact absurd rfl changed

theorem Effect.writesDisp (effect : Effect s i t) (changed : t.disp ≠ s.disp) :
    (∃ x y n, i = .drwVxVyN x y n) ∨ i = .cls := by
  cases effect with
  | draw x y n => exact .inl ⟨x, y, n, rfl⟩
  | clear => exact .inr rfl
  | _ => exact absurd rfl changed

theorem Effect.writesFault (effect : Effect s i t) (changed : t.fault ≠ s.fault) :
    ∃ c, HandlerCause i c := by
  cases effect with
  | fault c raises => exact ⟨c, raises⟩
  | _ => exact absurd rfl changed

theorem Effect.sameInputs (effect : Effect s i t) : SameInputs s t := by
  cases effect with
  | _ => exact ⟨rfl, rfl, rfl⟩

/-- A handler that completes moves `pc` by the class of its instruction (R122). -/
theorem Effect.pcAfter (effect : Effect s i t) (completes : t.fault.halted = false) :
    PcAfter i s t := by
  cases effect with
  | registers V _ advances =>
    obtain seq | ⟨wait, key⟩ := advances
    · simp [PcAfter, seq]
    · simp [PcAfter, wait, key]
  | address a writer => obtain ⟨nnn, rfl⟩ | ⟨x, rfl | rfl⟩ := writer <;> exact State.next2_pc _
  | store bs writer => obtain ⟨x, rfl | rfl⟩ := writer <;> exact State.next2_pc _
  | delay | sound | draw | clear => exact State.next2_pc _
  | skip cond skips => cases cond <;> simp [PcAfter, skips]
  | jump nnn => exact .inl ⟨nnn, .inl rfl, toNat_targetOf nnn⟩
  | jumpPlusV0 nnn => exact .inr (.inl ⟨nnn, rfl, s.toNat_targetPlusV0 nnn⟩)
  | call nnn => exact .inl ⟨nnn, .inr rfl, toNat_targetOf nnn⟩
  | ret v rest popped => exact .inr (.inr ⟨rfl, v, rest, popped, rfl⟩)
  | wait x noKey => simp [PcAfter, Instr.pcClass, noKey]
  | fault c => cases completes

end

/-- Settles O50: each clause is what the effects say of one element. -/
theorem eachElementHasItsWriters : Obligations.EachElementHasItsWriters := by
  intro i s t executed
  have effect := effect_of_exec executed
  exact ⟨fun _ => effect.mayWriteV, effect.writesI, effect.writesStack, effect.writesDtTarget,
    effect.writesStTarget, effect.writesMem, effect.writesDisp, effect.writesFault,
    effect.sameInputs⟩

/-! ### The inputs of a step (R33, R120) -/

/-- What a step samples at its start stands in the input latches after it. -/
theorem step_keeps_sample {s t : State} (stepped : step s = .next t) : SameInputs s.sample t := by
  obtain ⟨c, w, -, rfl⟩ | ⟨-, i, -, effect⟩ := step_effect stepped
  · exact ⟨rfl, rfl, rfl⟩
  · exact effect.sameInputs

theorem advanceOf_of_nonneg {d : Draw} (h : 0 ≤ d.elapsed) : advanceOf d = d.elapsed := if_pos h

theorem State.nextDraw_of_cons {s : State} {d : Draw} {ds : List Draw} (h : s.script = d :: ds) :
    s.nextDraw = d := by
  simp only [State.nextDraw, h]

theorem State.nextDraw_of_nil {s : State} (h : s.script = []) :
    s.nextDraw = Config.freeDraw s.drawn := by
  simp only [State.nextDraw, h]

/-- Settles O42: the latches after a step are those of `State.sample`, whatever the step did. -/
theorem everyStepSamplesOneDraw : Obligations.EveryStepSamplesOneDraw := by
  intro s t stepped
  obtain ⟨port, script, drawn⟩ := step_keeps_sample stepped
  rw [port, script, drawn]
  refine ⟨rfl, rfl, ?notBack, ?advances, ?scripted, ?free, rfl⟩
  case notBack => exact le_add_of_nonneg_right (advanceOf_nonneg s.nextDraw)
  case advances => exact fun forward => congrArg (s.port.now + ·) (advanceOf_of_nonneg forward)
  case scripted => exact fun d ds h => ⟨State.nextDraw_of_cons h, congrArg List.tail h⟩
  case free => exact fun h => ⟨State.nextDraw_of_nil h, congrArg List.tail h⟩

/-! ### `pc` as a number (R25) -/

/-- Settles O57: the fetch puts `pc` at most at 0xFFE, and the invariant so every popped entry, where
adding 2 or 4 does not wrap. -/
theorem pcNeverWraps : Obligations.PcNeverWraps := by
  intro s t i inv stepped completes decoded
  obtain ⟨c, w, -, rfl⟩ | ⟨⟨-, pc_le⟩, j, decoded', effect⟩ := step_effect stepped
  · cases completes
  obtain rfl : i = j := Option.some.inj (decoded.symm.trans decoded')
  have after : PcAfter i s.sample t := effect.pcAfter completes
  refine ⟨fun seq => ?_, fun skip => ?_, fun wait => ?_, ?_⟩
  · rw [PcAfter, seq] at after
    exact after ▸ toNat_pc_add_two pc_le
  · rw [PcAfter, skip] at after
    obtain two | four := after
    · exact .inl (two ▸ toNat_pc_add_two pc_le)
    · exact .inr (four ▸ toNat_pc_add_four pc_le)
  · rw [PcAfter, wait] at after
    rw [effect.sameInputs.1]
    split_ifs at after ⊢ with noKey
    · exact congrArg BitVec.toNat after
    · exact after ▸ toNat_pc_add_two pc_le
  · rintro rfl v rest stack_eq
    obtain ⟨v', rest', popped, pc_eq⟩ :
        ∃ v' rest', s.stack = v' :: rest' ∧ t.pc = v' + 2 := by
      simpa [PcAfter, Instr.pcClass] using after
    obtain ⟨rfl, rfl⟩ := List.cons.inj (popped.symm.trans stack_eq)
    have v_le : v'.toNat ≤ 0xFFE := (inv.stackCalls v' (popped ▸ List.mem_cons_self)).2
    exact pc_eq ▸ toNat_pc_add_two v_le

/-! ### What a handler does not read -/

/-- The state with other samples and another sound target: all that a handler which does not consult
the inputs leaves unread (R29, R33, R230). -/
def State.withUnread (s : State) (p : Port) (q : Rat) : State := { s with port := p, stTarget := q }

section
variable (s : State) (p : Port) (q : Rat)

@[simp] theorem State.withUnread_pc : (s.withUnread p q).pc = s.pc := rfl
@[simp] theorem State.getV_withUnread (r : RegIdx) : (s.withUnread p q).getV r = s.getV r := rfl
@[simp] theorem State.regsUpTo_withUnread (x : RegIdx) :
    (s.withUnread p q).regsUpTo x = s.regsUpTo x := rfl
@[simp] theorem State.addrAtI_withUnread (k : Nat) :
    (s.withUnread p q).addrAtI k = s.addrAtI k := rfl
@[simp] theorem State.memRead_withUnread (a n : Nat) :
    (s.withUnread p q).memRead a n = s.memRead a n := rfl

@[simp] theorem State.push_withUnread (v : Pc) :
    (s.withUnread p q).push v = (s.push v).map (·.withUnread p q) := by
  rw [State.push, State.push, apply_ite (Option.map (State.withUnread · p q))]
  rfl

@[simp] theorem State.pop_withUnread :
    (s.withUnread p q).pop = s.pop.map fun popped => (popped.1, popped.2.withUnread p q) := by
  obtain ⟨_, _, _, stack, _⟩ := s
  cases stack with
  | nil | cons => rfl

@[simp] theorem State.memWrite_withUnread (a : Nat) (bs : List Byte) :
    (s.withUnread p q).memWrite a bs = (s.memWrite a bs).map (·.withUnread p q) := by
  rw [State.memWrite, State.memWrite, apply_ite (Option.map (State.withUnread · p q))]
  rfl

end

/-- A handler that does not consult the inputs does the same whatever stands in the unread fields. -/
theorem exec_withUnread {i : Instr} (s t : State) (p : Port) (q : Rat) (unread : ¬ ConsultsInputs i) :
    exec i s = .next t → exec i (s.withUnread p q) = .next (t.withUnread p q) := by
  cases i with
  | rndVxNn x nn => exact absurd (.inl ⟨x, nn, rfl⟩) unread
  | ldDtVx x => exact absurd (.inr (.inl ⟨x, .inl rfl⟩)) unread
  | ldStVx x => exact absurd (.inr (.inl ⟨x, .inr (.inl rfl)⟩)) unread
  | ldVxDt x => exact absurd (.inr (.inl ⟨x, .inr (.inr rfl)⟩)) unread
  | ldVxK x => exact absurd (.inr (.inr ⟨x, .inl rfl⟩)) unread
  | skpVx x => exact absurd (.inr (.inr ⟨x, .inr (.inl rfl)⟩)) unread
  | sknpVx x => exact absurd (.inr (.inr ⟨x, .inr (.inr rfl)⟩)) unread
  | callNnn nnn =>
    simp only [exec, execCallNnn, State.withUnread_pc, State.push_withUnread]
    cases s.push s.pc with
    | none | some => rintro ⟨⟩; rfl
  | ret =>
    simp only [exec, execRet, State.pop_withUnread]
    cases s.pop with
    | none | some => rintro ⟨⟩; rfl
  | ldBVx x =>
    simp only [exec, execLdBVx, State.getV_withUnread, State.addrAtI_withUnread,
      State.memWrite_withUnread]
    cases s.memWrite (s.addrAtI 0) (decimalDigits (s.getV x)) with
    | none | some => rintro ⟨⟩; rfl
  | ldMemIVx x =>
    simp only [exec, execLdMemIVx, State.regsUpTo_withUnread, State.addrAtI_withUnread,
      State.memWrite_withUnread]
    cases s.memWrite (s.addrAtI 0) (s.regsUpTo x) with
    | none | some => rintro ⟨⟩; rfl
  | ldVxMemI x =>
    simp only [exec, execLdVxMemI, State.addrAtI_withUnread, State.memRead_withUnread]
    cases s.memRead (s.addrAtI 0) (x.val + 1) with
    | none | some => rintro ⟨⟩; rfl
  | drwVxVyN x y n =>
    simp only [exec, execDrwVxVyN, State.addrAtI_withUnread, State.memRead_withUnread]
    cases s.memRead (s.addrAtI 0) n.toNat with
    | none | some => rintro ⟨⟩; rfl
  | _ => rintro ⟨⟩; rfl

/-- Settles O51: such an instruction is none that writes the sound target either. -/
theorem unconsultedInputsHaveNoEffect : Obligations.UnconsultedInputsHaveNoEffect := by
  intro i s p unread
  obtain ⟨t, executed, effect⟩ := exec_effect i s
  have sameSound : t.stTarget = s.stTarget := by
    by_contra changed
    obtain ⟨x, rfl⟩ := effect.writesStTarget changed
    exact unread (.inr (.inl ⟨x, .inr (.inl rfl)⟩))
  have executed' : exec i { s with port := p } = .next (t.withUnread p s.stTarget) :=
    exec_withUnread s t p s.stTarget unread executed
  exact ⟨t, executed, executed'.trans (by rw [State.withUnread, ← sameSound])⟩

/-- A handler that does consult the inputs reads no sound target. -/
theorem exec_withSound_of_consults {i : Instr} (s t : State) (q : Rat) (consults : ConsultsInputs i) :
    exec i s = .next t → ∃ q', exec i { s with stTarget := q } = .next { t with stTarget := q' } := by
  obtain ⟨x, nn, rfl⟩ | ⟨x, rfl | rfl | rfl⟩ | ⟨x, rfl | rfl | rfl⟩ := consults
  case inr.inr.inl =>
    simp only [exec, execLdVxK]
    cases s.port.key with
    | none | some => rintro ⟨⟩; exact ⟨_, rfl⟩
  all_goals rintro ⟨⟩; exact ⟨_, rfl⟩

theorem exec_withSound {i : Instr} {s t : State} (q : Rat) (executed : exec i s = .next t) :
    ∃ q', exec i { s with stTarget := q } = .next { t with stTarget := q' } := by
  by_cases consults : ConsultsInputs i
  · exact exec_withSound_of_consults s t q consults executed
  · have samePort : t.port = s.port := (effect_of_exec executed).sameInputs.1
    have executed' : exec i { s with stTarget := q } = .next (t.withUnread s.port q) :=
      exec_withUnread s t s.port q consults executed
    exact ⟨q, executed'.trans (by rw [State.withUnread, ← samePort])⟩

/-- Settles O52: fetch and decode do not read the sound target, and no handler does. -/
theorem soundTimerIsUnobservable : Obligations.SoundTimerIsUnobservable := by
  intro s t q stepped
  have running : s.running := running_of_step_next stepped
  have fetches : fetch ({ s with stTarget := q } : State).sample = fetch s.sample := rfl
  rw [step, if_neg (by rw [running]; decide)] at stepped
  rw [step, if_neg (by rw [running]; decide), fetches]
  cases fetched : fetch s.sample with
  | error c =>
    rw [fetched] at stepped
    cases stepped
    exact ⟨q, rfl⟩
  | ok w =>
    rw [fetched] at stepped
    cases decoded : decode w with
    | none =>
      simp only [decoded] at stepped ⊢
      cases stepped
      exact ⟨q, rfl⟩
    | some i =>
      simp only [decoded] at stepped ⊢
      exact exec_withSound q stepped

/-! ### A return after a call (R162, R163) -/

/-- Settles O19: the call leaves its own address on top, which the return pops. -/
theorem callThenReturn : Obligations.CallThenReturn := fun _ _ room =>
  ⟨_, exec_call_of_room room, fun _ sameStack => ⟨_, exec_ret_of_cons sameStack, rfl, rfl⟩⟩

/-! ### Memory after reset (R62 to R65) -/

theorem Memory.unlisted_font {a : Nat} (h : a < 0x50) : some (Memory.unlisted a) = Config.font[a]? := by
  have inFont : Config.fontBase ≤ a ∧ a < Config.fontBase + Config.fontGlyphs * Config.fontStride :=
    ⟨Nat.zero_le a, h⟩
  have listed : Config.font[a]? = some Config.font[a] := List.getElem?_eq_getElem h
  rw [Memory.unlisted, if_pos inFont, List.getD_eq_getElem?_getD, Config.fontBase, Nat.sub_zero,
    listed, Option.getD_some]

theorem Memory.unlisted_above {a : Nat} (h : 0x50 ≤ a) : Memory.unlisted a = Config.fill :=
  if_neg fun inFont => Nat.not_lt.mpr h inFont.2

/-- Byte k of the ROM at 0x200 + k, every other byte as an unlisted address reads (R62 to R65). -/
theorem Memory.read_load (rom : List Byte) (a : Nat) :
    Memory.read (Memory.load rom) a =
      if h : 0x200 ≤ a ∧ a < 0x200 + rom.length then rom[a - 0x200]'(by omega)
      else Memory.unlisted a :=
  Memory.read_writeBytes [] Config.progBase a rom

theorem Memory.read_load_below (rom : List Byte) {a : Nat} (h : a < 0x200) :
    Memory.read (Memory.load rom) a = Memory.unlisted a := by
  rw [Memory.read_load, dif_neg (by omega)]

theorem Memory.read_load_rom (rom : List Byte) (k : Nat) (h : k < rom.length) :
    Memory.read (Memory.load rom) (0x200 + k) = rom[k] := by
  rw [Memory.read_load, dif_pos (by omega)]
  simp only [Nat.add_sub_cancel_left]

theorem Memory.read_load_above (rom : List Byte) {a : Nat} (h : 0x200 + rom.length ≤ a) :
    Memory.read (Memory.load rom) a = Config.fill := by
  rw [Memory.read_load, dif_neg (by omega), Memory.unlisted_above (by omega)]

theorem Memory.wf_load {rom : List Byte} (fits : rom.length ≤ Config.romMax) :
    Memory.wf (Memory.load rom) = true := by
  refine Memory.wf_writeBytes Memory.wf_nil (.inr ?_)
  simp only [Config.romMax, Config.progBase, Config.memSize] at fits ⊢
  omega

/-! ### The state after reset -/

theorem State.getV_reset (r : RegIdx) : State.reset.getV r = 0 := Vector.getElem_replicate _

/-- A timer whose target is `now` reads 0, as after reset (R37, R181). -/
theorem timerRead_self (now : Rat) : timerRead now now = 0 := by
  have rounds : roundNearest .toEven 0 = 0 := by
    refine roundNearest_unique 0 0 ?_ ?_ ?_ <;> norm_num
  rw [timerRead, sub_self]
  exact congrArg (max 0) rounds

theorem State.inv_resetWith (s : State) {rom : List Byte} {now : Rat}
    (fits : rom.length ≤ Config.romMax) (nonneg : 0 ≤ now) : Inv (s.resetWith rom now) where
  memCanonical := Memory.wf_load fits
  stackBounded := Nat.zero_le _
  stackCalls := fun _ inEmpty => nomatch inEmpty
  pcBounded := (by decide : State.reset.pc.toNat ≤ 0x10FE)
  timeNonneg := nonneg
  delayBounded := le_add_of_nonneg_right (by norm_num)
  soundBounded := le_add_of_nonneg_right (by norm_num)
  recordClear := fun _ => rfl
  recordPrecise := fun halted => by cases halted

/-! ### Which resets are accepted (R64, R180; log 24) -/

section
variable {s t : State} {rom : List Byte} {now : Rat}

theorem State.assertReset_of_before (fits : rom.length ≤ Config.romMax)
    (before : now < 0 ∨ now < s.port.now) : s.assertReset rom now = .refused .timeBeforeSample := by
  obtain ⟨tooLong, -⟩ | ⟨-, -, refused⟩ | ⟨-, nonneg, notBefore, -⟩ := s.assertReset_spec rom now
  · exact absurd fits (Nat.not_le.mpr tooLong)
  · exact refused
  · exact absurd before (not_or.mpr ⟨not_lt.mpr nonneg, not_lt.mpr notBefore⟩)

theorem State.assertReset_of_admitted (fits : rom.length ≤ Config.romMax) (nonneg : 0 ≤ now)
    (notBefore : s.port.now ≤ now) : s.assertReset rom now = .next (s.resetWith rom now) := by
  obtain ⟨tooLong, -⟩ | ⟨-, before, -⟩ | ⟨-, -, -, accepted⟩ := s.assertReset_spec rom now
  · exact absurd fits (Nat.not_le.mpr tooLong)
  · exact absurd before (not_or.mpr ⟨not_lt.mpr nonneg, not_lt.mpr notBefore⟩)
  · exact accepted

theorem State.admitted_of_assertReset_next (reset : s.assertReset rom now = .next t) :
    rom.length ≤ Config.romMax ∧ 0 ≤ now ∧ s.port.now ≤ now ∧ t = s.resetWith rom now := by
  obtain ⟨-, refused⟩ | ⟨-, -, refused⟩ | ⟨fits, nonneg, notBefore, accepted⟩ :=
    s.assertReset_spec rom now
  · cases refused.symm.trans reset
  · cases refused.symm.trans reset
  · exact ⟨fits, nonneg, notBefore, Host.Outcome.next.inj (reset.symm.trans accepted)⟩

end

/-- Settles O54: the elements of `State.resetWith`, and its memory part by part. -/
theorem resetEstablishesTheState : Obligations.ResetEstablishesTheState := by
  intro s rom now
  refine ⟨fun tooLong => if_pos tooLong, State.assertReset_of_before, fun fits nonneg notBefore =>
    ⟨_, State.assertReset_of_admitted fits nonneg notBefore, rfl, State.getV_reset, rfl, rfl, rfl,
      rfl, rfl, timerRead_self now, timerRead_self now, Disp.pixel_clear, rfl, ?font, ?between,
      Memory.read_load_rom rom, fun a => Memory.read_load_above rom⟩⟩
  case font =>
    intro a inFont
    exact (congrArg some (Memory.read_load_below rom (by omega))).trans (Memory.unlisted_font inFont)
  case between =>
    intro a above below
    exact (Memory.read_load_below rom below).trans (Memory.unlisted_above above)

/-- Settles O55: `State.reset` is itself a reset, with the empty ROM at time 0. -/
theorem resetSatisfiesInv : Obligations.ResetSatisfiesInv := by
  refine ⟨State.reset.inv_resetWith (rom := []) (Nat.zero_le _) le_rfl, fun s t rom now reset => ?_⟩
  obtain ⟨fits, nonneg, notBefore, rfl⟩ := State.admitted_of_assertReset_next reset
  exact ⟨s.inv_resetWith fits nonneg, notBefore⟩

end Sys2Proof.Machine

namespace Sys2Proof.Machine

/-! ### The canonical form determines the memory (R60; log 21) -/

section
variable {m : Memory}

/-- Rising addresses: no cell stands before another of the same address. -/
theorem Memory.read_of_mem (rising : m.Pairwise fun c d => c.1 < d.1) {c : Host.Cell} (listed : c ∈ m) :
    Memory.read m c.1 = c.2 := by
  induction m with
  | nil => cases listed
  | cons d rest ih =>
    obtain ⟨d_first, rest_rising⟩ := List.pairwise_cons.mp rising
    rw [Memory.read_cons]
    obtain rfl | inRest := List.mem_cons.mp listed
    · exact if_pos rfl
    · exact (if_neg (d_first c inRest).ne).trans (ih rest_rising inRest)

theorem Memory.mem_of_read_ne_unlisted {a : Nat} (differs : Memory.read m a ≠ Memory.unlisted a) :
    (a, Memory.read m a) ∈ m := by
  induction m with
  | nil => exact absurd (Memory.read_nil a) differs
  | cons d rest ih =>
    rw [Memory.read_cons] at differs ⊢
    split_ifs at differs ⊢ with here
    · exact here ▸ List.mem_cons_self
    · exact List.mem_cons_of_mem d (ih differs)

/-- The cells of a canonical memory, in terms of what it reads. -/
theorem Memory.mem_iff_read (canonical : Memory.wf m = true) (c : Host.Cell) :
    c ∈ m ↔ c.1 < Config.memSize ∧ c.2 ≠ Memory.unlisted c.1 ∧ Memory.read m c.1 = c.2 := by
  obtain ⟨rising, cells⟩ := (Memory.wf_iff m).mp canonical
  constructor
  · intro listed
    obtain ⟨inBounds, differs⟩ := cells c listed
    exact ⟨inBounds, differs, Memory.read_of_mem rising listed⟩
  · rintro ⟨-, differs, reads⟩
    rw [← reads] at differs
    have listed : (c.1, Memory.read m c.1) ∈ m := Memory.mem_of_read_ne_unlisted differs
    rwa [reads] at listed

end

/-- Settles O32: two canonical memories that read the same list the same cells, and rising addresses
leave one order for them. -/
theorem canonicalMemoryIsUnique : Obligations.CanonicalMemoryIsUnique := by
  intro m n canonical_m canonical_n sameReads
  have sameCells (c : Host.Cell) : c ∈ m ↔ c ∈ n := by
    rw [Memory.mem_iff_read canonical_m, Memory.mem_iff_read canonical_n]
    exact and_congr_right fun inBounds => by rw [sameReads c.1 inBounds]
  exact List.Pairwise.eq_of_mem_iff (r := Prod.fst ⁻¹'o (· < ·))
    ((Memory.wf_iff m).mp canonical_m).1 ((Memory.wf_iff n).mp canonical_n).1 sameCells

/-! ### The fetch of a word just stored (R66, R67, R121, R193) -/

section
variable {s : State} {x : RegIdx}

theorem exec_ldMemIVx_of_inRange (inRange : s.addrAtI x.val ≤ 0xFFF) :
    exec (.ldMemIVx x) s =
      .next ({ s with mem := s.mem.writeBytes (s.addrAtI 0) (s.regsUpTo x) } : State).next2 := by
  obtain ⟨stored, -⟩ | ⟨-, -, outOfRange⟩ := s.memWrite_spec (s.addrAtI 0) (s.regsUpTo x)
  · simp only [exec, execLdMemIVx, stored]
  · rw [State.length_regsUpTo, Config.memSize] at outOfRange
    simp only [State.addrAtI] at inRange outOfRange
    omega

/-- Byte r of the block FX55 stores is V[r] (R193). -/
theorem State.read_writeBytes_regsUpTo {r : RegIdx} (stored : r.val ≤ x.val) :
    Memory.read (s.mem.writeBytes (s.addrAtI 0) (s.regsUpTo x)) (s.addrAtI r.val) = s.getV r := by
  rw [Memory.read_writeBytes, dif_pos (by simp only [State.addrAtI, State.length_regsUpTo]; omega),
    State.getElem_regsUpTo]
  simp only [State.addrAtI, Nat.add_zero, Nat.add_sub_cancel_left]

theorem State.fetchable_iff : s.fetchable ↔ s.pc.toNat % 2 = 0 ∧ s.pc.toNat ≤ 0xFFE := by
  rw [State.fetchable, BitVec.getLsbD, Nat.testBit_zero, decide_eq_false_iff_not, Nat.mod_two_not_eq_one]

theorem fetch_of_fetchable (fetchable : s.fetchable) : fetch s = .ok s.wordAtPc := by
  obtain ⟨odd, -⟩ | ⟨-, beyond, -⟩ | ⟨-, fetched⟩ := fetch_spec s
  · cases odd.symm.trans fetchable.1
  · exact absurd fetchable.2 (Nat.not_le.mpr beyond)
  · exact fetched

end

/-- Settles O31: `pc` moves on to the address in I, where FX55 has just stored V0 and then V1. -/
theorem storedWordIsFetchedNext : Obligations.StoredWordIsFetchedNext := by
  intro x s x_pos fetchable behind inRange
  obtain ⟨even, pc_le⟩ := State.fetchable_iff.mp fetchable
  refine ⟨_, exec_ldMemIVx_of_inRange inRange, ?_⟩
  set t : State := ({ s with mem := s.mem.writeBytes (s.addrAtI 0) (s.regsUpTo x) } : State).next2
  have pc_at_I : t.pc.toNat = s.I.toNat := (toNat_pc_add_two pc_le).trans behind.symm
  have fetchable' : t.fetchable := by
    rw [State.fetchable_iff, pc_at_I]
    rw [State.addrAtI] at inRange
    omega
  have readsV0 : t.mem.read s.I.toNat = s.getV 0 :=
    State.read_writeBytes_regsUpTo (r := 0) (Nat.zero_le x.val)
  have readsV1 : t.mem.read (s.I.toNat + 1) = s.getV 1 :=
    State.read_writeBytes_regsUpTo (r := 1) x_pos
  rw [fetch_of_fetchable fetchable', State.wordAtPc, pc_at_I, readsV0, readsV1]

end Sys2Proof.Machine

namespace Sys2Proof

/-! ### What a word that responds says of its fields (R91, R95) -/

section
variable {m k w : Word}

theorem respondsTo_iff : respondsTo m k w = true ↔ w &&& k = m := beq_iff_eq

/-- A field all of whose bits the mask compares is the field of the match. -/
theorem extract_of_respondsTo {a l : Nat} (responds : respondsTo m k w = true)
    (literal : k.extractLsb' a l = BitVec.allOnes l) : w.extractLsb' a l = m.extractLsb' a l := by
  rw [← respondsTo_iff.mp responds, BitVec.extractLsb'_and, literal, BitVec.and_allOnes]

theorem eq_of_respondsTo_FFFF (responds : respondsTo m 0xFFFF#16 w = true) : w = m :=
  BitVec.and_allOnes.symm.trans (respondsTo_iff.mp responds)

/-- Two matches one word responds to agree on the bits both masks compare. -/
theorem agree_of_respondsTo {m' k' : Word} (responds : respondsTo m k w = true)
    (responds' : respondsTo m' k' w = true) : m &&& k' = m' &&& k := by
  rw [← respondsTo_iff.mp responds, ← respondsTo_iff.mp responds', BitVec.and_assoc, BitVec.and_assoc,
    BitVec.and_comm k k']

end

/-! ### Rows that overlap (R96, R97) -/

/-- The only rows whose matches agree on the bits both compare: 00EE and 00E0, each with 0NNN. -/
theorem dispatchTable_agreeing : ∀ j k : Fin dispatchTable.length, j < k →
    dispatchTable[j].mtch &&& dispatchTable[k].mask = dispatchTable[k].mtch &&& dispatchTable[j].mask →
    (j.val = 15 ∨ j.val = 30) ∧ k.val = 34 := by
  decide

/-- Settles O5: rows that share a word agree where both masks compare, which the table rules out for
all but two pairs; 00EE and 00E0 compare every bit, so they leave one word each. -/
theorem tableOverlapsOnlyTwice : Obligations.TableOverlapsOnlyTwice := by
  intro w j k r q before row_j row_k
  obtain ⟨j_lt, rfl⟩ := List.getElem?_eq_some_iff.mp row_j
  obtain ⟨k_lt, rfl⟩ := List.getElem?_eq_some_iff.mp row_k
  constructor
  · rintro ⟨responds_j, responds_k⟩
    obtain ⟨rfl | rfl, rfl⟩ := dispatchTable_agreeing ⟨j, j_lt⟩ ⟨k, k_lt⟩ before
      (agree_of_respondsTo responds_j responds_k)
    · exact .inl ⟨eq_of_respondsTo_FFFF responds_j, rfl, rfl⟩
    · exact .inr ⟨eq_of_respondsTo_FFFF responds_j, rfl, rfl⟩
  · rintro (⟨rfl, rfl, rfl⟩ | ⟨rfl, rfl, rfl⟩)
    · exact (by decide : respondsTo 0x00EE 0xFFFF 0x00EE = true ∧ respondsTo 0x0000 0xF000 0x00EE = true)
    · exact (by decide : respondsTo 0x00E0 0xFFFF 0x00E0 = true ∧ respondsTo 0x0000 0xF000 0x00E0 = true)

/-! ### The row a word selects (R97) -/

section
variable {w : Word} {i : Instr}

/-- A row of the table that responds is the first that does, but for the two words of O5. -/
theorem dispatch_of_mem {r : Row} (row : r ∈ dispatchTable) (responds : respondsTo r.mtch r.mask w = true)
    (notRet : w ≠ 0x00EE) (notCls : w ≠ 0x00E0) : dispatch w = some r := by
  obtain ⟨k, k_lt, rfl⟩ := List.mem_iff_getElem.mp row
  refine List.find?_eq_some_iff_getElem.mpr ⟨responds, k, k_lt, rfl, fun j before => ?_⟩
  have j_lt := before.trans k_lt
  rw [Bool.not_eq_true', ← Bool.not_eq_true]
  intro responds_j
  obtain ⟨ret, -⟩ | ⟨cls, -⟩ := (tableOverlapsOnlyTwice w j k _ _ before (List.getElem?_eq_getElem j_lt)
    (List.getElem?_eq_getElem k_lt)).mp ⟨responds_j, responds⟩
  · exact notRet ret
  · exact notCls cls

theorem decode_eq_some (decoded : decode w = some i) :
    ∃ r ∈ dispatchTable, respondsTo r.mtch r.mask w = true ∧ r.build (decodeFields w) = i := by
  obtain ⟨r, selected, built⟩ := Option.map_eq_some_iff.mp decoded
  have responds := List.find?_some (p := fun r : Row => respondsTo r.mtch r.mask w) selected
  exact ⟨r, List.mem_of_find?_eq_some selected, responds, built⟩

theorem decode_eq_none_iff :
    decode w = none ↔ ∀ r ∈ dispatchTable, ¬ respondsTo r.mtch r.mask w = true := by
  rw [decode, Option.map_eq_none_iff, dispatch, List.find?_eq_none]

end

/-! ### Decoding what was encoded -/

open Laws in
/-- Every instruction has its row, by constructor. -/
theorem encodesRow : ∀ i : Instr, EncodesRow.Statement i
  | .ldVxNn x nn => EncodesRow.ldVxNn x nn
  | .addVxNn x nn => EncodesRow.addVxNn x nn
  | .ldVxVy x y => EncodesRow.ldVxVy x y
  | .orVxVy x y => EncodesRow.orVxVy x y
  | .andVxVy x y => EncodesRow.andVxVy x y
  | .xorVxVy x y => EncodesRow.xorVxVy x y
  | .addVxVy x y => EncodesRow.addVxVy x y
  | .subVxVy x y => EncodesRow.subVxVy x y
  | .shrVxVy x y => EncodesRow.shrVxVy x y
  | .subnVxVy x y => EncodesRow.subnVxVy x y
  | .shlVxVy x y => EncodesRow.shlVxVy x y
  | .rndVxNn x nn => EncodesRow.rndVxNn x nn
  | .jpNnn nnn => EncodesRow.jpNnn nnn
  | .jpV0Nnn nnn => EncodesRow.jpV0Nnn nnn
  | .callNnn nnn => EncodesRow.callNnn nnn
  | .ret => EncodesRow.ret
  | .seVxNn x nn => EncodesRow.seVxNn x nn
  | .sneVxNn x nn => EncodesRow.sneVxNn x nn
  | .seVxVy x y => EncodesRow.seVxVy x y
  | .sneVxVy x y => EncodesRow.sneVxVy x y
  | .ldDtVx x => EncodesRow.ldDtVx x
  | .ldStVx x => EncodesRow.ldStVx x
  | .ldVxDt x => EncodesRow.ldVxDt x
  | .ldINnn nnn => EncodesRow.ldINnn nnn
  | .addIVx x => EncodesRow.addIVx x
  | .ldBVx x => EncodesRow.ldBVx x
  | .ldMemIVx x => EncodesRow.ldMemIVx x
  | .ldVxMemI x => EncodesRow.ldVxMemI x
  | .ldFVx x => EncodesRow.ldFVx x
  | .drwVxVyN x y n => EncodesRow.drwVxVyN x y n
  | .cls => EncodesRow.cls
  | .ldVxK x => EncodesRow.ldVxK x
  | .skpVx x => EncodesRow.skpVx x
  | .sknpVx x => EncodesRow.sknpVx x
  | .sysNnn nnn => EncodesRow.sysNnn nnn

/-- The two instructions no word stands for (R99; log 17). -/
theorem Instr.wellFormed_iff (i : Instr) :
    i.wellFormed = true ↔ i ≠ .sysNnn 0x0E0 ∧ i ≠ .sysNnn 0x0EE := by
  cases i with
  | sysNnn nnn => simp [Instr.wellFormed, sysOperandOk]
  | _ => simp [Instr.wellFormed]

theorem build_00EE : ∀ r ∈ dispatchTable, respondsTo r.mtch r.mask 0x00EE = true →
    r.build (decodeFields 0x00EE) = .ret ∨ r.build (decodeFields 0x00EE) = .sysNnn 0x0EE := by
  decide

theorem build_00E0 : ∀ r ∈ dispatchTable, respondsTo r.mtch r.mask 0x00E0 = true →
    r.build (decodeFields 0x00E0) = .cls ∨ r.build (decodeFields 0x00E0) = .sysNnn 0x0E0 := by
  decide

/-- Away from 0x00EE and 0x00E0 the instruction's own row is the one its word selects; at those words
the first row wins, and well-formedness leaves no other instruction. -/
theorem decode_encode {i : Instr} (wf : i.wellFormed = true) : decode (encode i) = some i := by
  obtain ⟨notSysCls, notSysRet⟩ := i.wellFormed_iff.mp wf
  obtain ⟨r, row, responds, built⟩ := encodesRow i
  by_cases ret : encode i = 0x00EE
  · rw [ret] at responds built
    obtain rfl : i = .ret := built ▸ (build_00EE r row responds).resolve_right (built ▸ notSysRet)
    decide
  by_cases cls : encode i = 0x00E0
  · rw [cls] at responds built
    obtain rfl : i = .cls := built ▸ (build_00E0 r row responds).resolve_right (built ▸ notSysCls)
    decide
  rw [decode, dispatch_of_mem row responds ret cls, Option.map_some, built]

/-- The two bytes of a word join to it, the high byte first (R90). -/
theorem joinWord_extract (w : Word) : joinWord (w.extractLsb' 8 8) (w.extractLsb' 0 8) = w :=
  (BitVec.extractLsb'_append_extractLsb'_eq_extractLsb' rfl).trans BitVec.extractLsb'_eq_self

/-- Settles O2, by `decode_encode` on the word the two bytes join to. -/
theorem decodeOfEncodeIsTheInstruction : Obligations.DecodeOfEncodeIsTheInstruction := by
  intro i rest wf
  refine ⟨decode_encode wf, ?_⟩
  simp only [encodeBytes, List.cons_append, List.nil_append, decodeBytes, joinWord_extract, decode_encode wf]

end Sys2Proof

namespace Sys2Proof

/-! ### Encoding what was decoded: the formats of R92 on a word's own fields -/

section
variable {w : Word} {f l : Nibble} {low : Byte}

theorem encodeNNN_decodeFields (family : w.extractLsb' 12 4 = f) :
    encodeNNN f (decodeFields w).nnn = w :=
  word_ext (by rw [encodeNNN_family, family]) (encodeNNN_nnn f _)

theorem encodeXNN_decodeFields (family : w.extractLsb' 12 4 = f) :
    encodeXNN f (decodeFields w).x (decodeFields w).nn = w :=
  word_ext_x (by rw [encodeXNN_family, family]) (encodeXNN_x f _ _) (encodeXNN_nn f _ _)

theorem encodeXYN_decodeFields (family : w.extractLsb' 12 4 = f) :
    encodeXYN f (decodeFields w).x (decodeFields w).y (decodeFields w).n = w :=
  word_ext_xy (by rw [encodeXYN_family, family]) (encodeXYN_x f _ _ _) (encodeXYN_y f _ _ _)
    (encodeXYN_n f _ _ _)

theorem encodeXY_decodeFields (family : w.extractLsb' 12 4 = f) (last : w.extractLsb' 0 4 = l) :
    encodeXY f (decodeFields w).x (decodeFields w).y l = w :=
  last ▸ encodeXYN_decodeFields family

theorem encodeX_decodeFields (family : w.extractLsb' 12 4 = f) (low_eq : w.extractLsb' 0 8 = low) :
    encodeX f (decodeFields w).x low = w :=
  low_eq ▸ encodeXNN_decodeFields family

end

/-- The instruction a row builds from a word it responds to encodes to that word. -/
def Row.RoundTrips (r : Row) : Prop :=
  ∀ w, respondsTo r.mtch r.mask w = true → encode (r.build (decodeFields w)) = w

namespace Row.RoundTrips

section
variable {pattern : List Char} {m : Word} {mnemonic : String} {build : Fields → Instr}

theorem of_nnn (format : ∀ g, encode (build g) = encodeNNN (m.extractLsb' 12 4) g.nnn) :
    RoundTrips ⟨pattern, m, 0xF000, mnemonic, build⟩ := fun _ (responds : respondsTo m 0xF000 _ = true) =>
  (format _).trans (encodeNNN_decodeFields (extract_of_respondsTo responds (by decide)))

theorem of_xnn (format : ∀ g, encode (build g) = encodeXNN (m.extractLsb' 12 4) g.x g.nn) :
    RoundTrips ⟨pattern, m, 0xF000, mnemonic, build⟩ := fun _ (responds : respondsTo m 0xF000 _ = true) =>
  (format _).trans (encodeXNN_decodeFields (extract_of_respondsTo responds (by decide)))

theorem of_xyn (format : ∀ g, encode (build g) = encodeXYN (m.extractLsb' 12 4) g.x g.y g.n) :
    RoundTrips ⟨pattern, m, 0xF000, mnemonic, build⟩ := fun _ (responds : respondsTo m 0xF000 _ = true) =>
  (format _).trans (encodeXYN_decodeFields (extract_of_respondsTo responds (by decide)))

theorem of_xy (format : ∀ g,
      encode (build g) = encodeXY (m.extractLsb' 12 4) g.x g.y (m.extractLsb' 0 4)) :
    RoundTrips ⟨pattern, m, 0xF00F, mnemonic, build⟩ := fun _ (responds : respondsTo m 0xF00F _ = true) =>
  (format _).trans (encodeXY_decodeFields (extract_of_respondsTo responds (by decide))
    (extract_of_respondsTo responds (by decide)))

theorem of_x (format : ∀ g, encode (build g) = encodeX (m.extractLsb' 12 4) g.x (m.extractLsb' 0 8)) :
    RoundTrips ⟨pattern, m, 0xF0FF, mnemonic, build⟩ := fun _ (responds : respondsTo m 0xF0FF _ = true) =>
  (format _).trans (encodeX_decodeFields (extract_of_respondsTo responds (by decide))
    (extract_of_respondsTo responds (by decide)))

theorem of_literal (format : ∀ g, encode (build g) = m) :
    RoundTrips ⟨pattern, m, 0xFFFF, mnemonic, build⟩ := fun _ responds =>
  (format _).trans (eq_of_respondsTo_FFFF responds).symm

end

end Row.RoundTrips

section
open Row.RoundTrips

theorem tableLoadArith_roundTrips : ∀ r ∈ tableLoadArith, r.RoundTrips := by
  simp only [tableLoadArith, List.forall_mem_cons]
  exact ⟨of_xnn fun _ => rfl, of_xnn fun _ => rfl, of_xy fun _ => rfl, of_xy fun _ => rfl,
    of_xy fun _ => rfl, of_xy fun _ => rfl, of_xy fun _ => rfl, of_xy fun _ => rfl,
    of_xy fun _ => rfl, of_xy fun _ => rfl, of_xy fun _ => rfl, of_xnn fun _ => rfl,
    List.forall_mem_nil _⟩

theorem tableControl_roundTrips : ∀ r ∈ tableControl, r.RoundTrips := by
  simp only [tableControl, List.forall_mem_cons]
  exact ⟨of_nnn fun _ => rfl, of_nnn fun _ => rfl, of_nnn fun _ => rfl, of_literal fun _ => rfl,
    of_xnn fun _ => rfl, of_xnn fun _ => rfl, of_xy fun _ => rfl, of_xy fun _ => rfl,
    List.forall_mem_nil _⟩

theorem tableTimersAddress_roundTrips : ∀ r ∈ tableTimersAddress, r.RoundTrips := by
  simp only [tableTimersAddress, List.forall_mem_cons]
  exact ⟨of_x fun _ => rfl, of_x fun _ => rfl, of_x fun _ => rfl, of_nnn fun _ => rfl,
    of_x fun _ => rfl, of_x fun _ => rfl, of_x fun _ => rfl, of_x fun _ => rfl, of_x fun _ => rfl,
    List.forall_mem_nil _⟩

theorem tableDisplayKeypad_roundTrips : ∀ r ∈ tableDisplayKeypad, r.RoundTrips := by
  simp only [tableDisplayKeypad, List.forall_mem_cons]
  exact ⟨of_xyn fun _ => rfl, of_literal fun _ => rfl, of_x fun _ => rfl, of_x fun _ => rfl,
    of_x fun _ => rfl, of_nnn fun _ => rfl, List.forall_mem_nil _⟩

theorem dispatchTable_roundTrips : ∀ r ∈ dispatchTable, r.RoundTrips := by
  simp only [dispatchTable, List.forall_mem_append]
  exact ⟨⟨⟨tableLoadArith_roundTrips, tableControl_roundTrips⟩, tableTimersAddress_roundTrips⟩,
    tableDisplayKeypad_roundTrips⟩

end

theorem encode_of_decode {w : Word} {i : Instr} (decoded : decode w = some i) : encode i = w := by
  obtain ⟨r, row, responds, rfl⟩ := decode_eq_some decoded
  exact dispatchTable_roundTrips r row w responds

/-- The words of the two ill-formed instructions decode to 00E0 and 00EE (R97, R99). -/
theorem wellFormed_of_decode {w : Word} {i : Instr} (decoded : decode w = some i) :
    i.wellFormed = true := by
  obtain rfl := encode_of_decode decoded
  refine i.wellFormed_iff.mpr ⟨?_, ?_⟩
  · rintro rfl
    exact absurd decoded (by decide)
  · rintro rfl
    exact absurd decoded (by decide)

/-- Settles O3, from the round trip of every row. -/
theorem encodeOfDecodeIsTheWord : Obligations.EncodeOfDecodeIsTheWord := fun _ _ decoded =>
  ⟨encode_of_decode decoded, wellFormed_of_decode decoded⟩

end Sys2Proof

namespace Sys2Proof

/-! ### Words no row responds to (R98) -/

/-- The rows whose literal first nibble is `f`. -/
def rowsOf (f : Nibble) : List Row := dispatchTable.filter fun r => r.mtch.extractLsb' 12 4 == f

theorem mem_rowsOf {r : Row} {f : Nibble} :
    r ∈ rowsOf f ↔ r ∈ dispatchTable ∧ r.mtch.extractLsb' 12 4 = f := by
  rw [rowsOf, List.mem_filter, beq_iff_eq]

theorem dispatchTable_compares_family :
    ∀ r ∈ dispatchTable, r.mask.extractLsb' 12 4 = BitVec.allOnes 4 := by
  decide

theorem dispatchTable_mtch_under_mask : ∀ r ∈ dispatchTable, r.mtch &&& r.mask = r.mtch := by
  decide

theorem mtch_under_mask_of_rowsOf {r : Row} {f : Nibble} (row : r ∈ rowsOf f) :
    r.mtch &&& r.mask = r.mtch :=
  dispatchTable_mtch_under_mask r (mem_rowsOf.mp row).1

section
variable {w : Word} {f : Nibble} (family : (decodeFields w).family = f)
include family

/-- In its own family a row of mask 0xF000 responds to every word. -/
theorem respondsTo_of_rowsOf_F000 {r : Row} (row : r ∈ rowsOf f) (mask : r.mask = 0xF000#16) :
    respondsTo r.mtch r.mask w = true := by
  have literal := mtch_under_mask_of_rowsOf row
  rw [mask] at literal ⊢
  rw [respondsTo_F000 _ _ literal, (mem_rowsOf.mp row).2, beq_iff_eq]
  exact family

/-- In its own family a row of mask 0xF00F responds to its last nibble. -/
theorem respondsTo_iff_of_rowsOf_F00F {r : Row} (row : r ∈ rowsOf f) (mask : r.mask = 0xF00F#16) :
    respondsTo r.mtch r.mask w = true ↔ w.extractLsb' 0 4 = r.mtch.extractLsb' 0 4 := by
  have literal := mtch_under_mask_of_rowsOf row
  rw [mask] at literal ⊢
  rw [respondsTo_F00F _ _ literal, (mem_rowsOf.mp row).2, Bool.and_eq_true, beq_iff_eq, beq_iff_eq]
  exact and_iff_right family

/-- In its own family a row of mask 0xF0FF responds to its low byte. -/
theorem respondsTo_iff_of_rowsOf_F0FF {r : Row} (row : r ∈ rowsOf f) (mask : r.mask = 0xF0FF#16) :
    respondsTo r.mtch r.mask w = true ↔ w.extractLsb' 0 8 = r.mtch.extractLsb' 0 8 := by
  have literal := mtch_under_mask_of_rowsOf row
  rw [mask] at literal ⊢
  rw [respondsTo_F0FF _ _ literal, (mem_rowsOf.mp row).2, Bool.and_eq_true, beq_iff_eq, beq_iff_eq]
  exact and_iff_right family

/-- Only the rows of a word's own family can respond to it. -/
theorem decode_eq_none_iff_rowsOf :
    decode w = none ↔ ∀ r ∈ rowsOf f, ¬ respondsTo r.mtch r.mask w = true := by
  rw [decode_eq_none_iff]
  constructor
  · exact fun unmatched r row => unmatched r (mem_rowsOf.mp row).1
  · intro unmatched r row responds
    have own : w.extractLsb' 12 4 = r.mtch.extractLsb' 12 4 :=
      extract_of_respondsTo responds (dispatchTable_compares_family r row)
    exact unmatched r (mem_rowsOf.mpr ⟨row, own.symm.trans family⟩) responds

theorem decode_ne_none_of_F000 (whole : ∃ r ∈ rowsOf f, r.mask = 0xF000#16) : decode w ≠ none := by
  obtain ⟨r, row, mask⟩ := whole
  intro unmatched
  exact (decode_eq_none_iff_rowsOf family).mp unmatched r row (respondsTo_of_rowsOf_F000 family row mask)

theorem decode_eq_none_iff_n (masks : ∀ r ∈ rowsOf f, r.mask = 0xF00F#16) :
    decode w = none ↔ ∀ r ∈ rowsOf f, (decodeFields w).n ≠ r.mtch.extractLsb' 0 4 := by
  rw [decode_eq_none_iff_rowsOf family]
  exact forall₂_congr fun r row => not_congr (respondsTo_iff_of_rowsOf_F00F family row (masks r row))

theorem decode_eq_none_iff_nn (masks : ∀ r ∈ rowsOf f, r.mask = 0xF0FF#16) :
    decode w = none ↔ ∀ r ∈ rowsOf f, (decodeFields w).nn ≠ r.mtch.extractLsb' 0 8 := by
  rw [decode_eq_none_iff_rowsOf family]
  exact forall₂_congr fun r row => not_congr (respondsTo_iff_of_rowsOf_F0FF family row (masks r row))

end

/-- Every family is one a single row takes whole, or one of the five of R98. -/
theorem wholeFamily_or : ∀ f : Nibble, (∃ r ∈ rowsOf f, r.mask = 0xF000#16) ∧
      f ≠ 0x5 ∧ f ≠ 0x8 ∧ f ≠ 0x9 ∧ f ≠ 0xE ∧ f ≠ 0xF ∨
    f = 0x5 ∨ f = 0x8 ∨ f = 0x9 ∨ f = 0xE ∨ f = 0xF := by
  decide

theorem noRow_5_iff : ∀ n : Nibble, (∀ r ∈ rowsOf 0x5, n ≠ r.mtch.extractLsb' 0 4) ↔ n ≠ 0 := by
  decide

theorem noRow_8_iff : ∀ n : Nibble,
    (∀ r ∈ rowsOf 0x8, n ≠ r.mtch.extractLsb' 0 4) ↔ 7 < n.toNat ∧ n ≠ 0xE := by
  decide

theorem noRow_9_iff : ∀ n : Nibble, (∀ r ∈ rowsOf 0x9, n ≠ r.mtch.extractLsb' 0 4) ↔ n ≠ 0 := by
  decide

theorem noRow_E_iff : ∀ nn : Byte,
    (∀ r ∈ rowsOf 0xE, nn ≠ r.mtch.extractLsb' 0 8) ↔ nn ∉ ([0x9E, 0xA1] : List Byte) := by
  decide

theorem noRow_F_iff : ∀ nn : Byte, (∀ r ∈ rowsOf 0xF, nn ≠ r.mtch.extractLsb' 0 8) ↔
    nn ∉ ([0x07, 0x0A, 0x15, 0x18, 0x1E, 0x29, 0x33, 0x55, 0x65] : List Byte) := by
  decide

/-- Settles O4, family by family: where no row takes the family whole, its rows' last nibbles or low
bytes are the ones R98 excepts. -/
theorem unmatchedWordsByFamily : Obligations.UnmatchedWordsByFamily := by
  intro w
  obtain ⟨whole, not5, not8, not9, notE, notF⟩ | family | family | family | family | family :=
    wholeFamily_or (decodeFields w).family
  · simp only [decode_ne_none_of_F000 rfl whole, not5, not8, not9, notE, notF, false_and, or_self]
  · rw [decode_eq_none_iff_n family (by decide), noRow_5_iff]
    simp [family]
  · rw [decode_eq_none_iff_n family (by decide), noRow_8_iff]
    simp [family]
  · rw [decode_eq_none_iff_n family (by decide), noRow_9_iff]
    simp [family]
  · rw [decode_eq_none_iff_nn family (by decide), noRow_E_iff]
    simp [family]
  · rw [decode_eq_none_iff_nn family (by decide), noRow_F_iff]
    simp [family]

end Sys2Proof

namespace Sys2Proof

/-! ### Compiled patterns (R94, R95) -/

/-- A compiled character compares a nibble with its digit; a wildcard compares nothing. -/
theorem matches_compileChar {c : Char} {p : Nibble × Nibble} (compiled : compileChar c = some p)
    (b : Nibble) : b &&& p.2 = p.1 ↔ ∀ d, hexDigit c = some d → b = d := by
  rw [compileChar] at compiled
  cases digit : hexDigit c with
  | some d =>
    rw [digit] at compiled
    obtain rfl := Option.some.inj compiled
    simp [and_ones_nibble]
  | none =>
    simp only [digit, Option.ite_none_right_eq_some] at compiled
    obtain ⟨-, compiled⟩ := compiled
    obtain rfl := Option.some.inj compiled
    simp

theorem compilePattern_eq_some {c3 c2 c1 c0 : Char} {m k : Word}
    (compiled : compilePattern [c3, c2, c1, c0] = some (m, k)) :
    ∃ p3 p2 p1 p0, compileChar c3 = some p3 ∧ compileChar c2 = some p2 ∧ compileChar c1 = some p1 ∧
      compileChar c0 = some p0 ∧ m = p3.1 ++ p2.1 ++ p1.1 ++ p0.1 ∧ k = p3.2 ++ p2.2 ++ p1.2 ++ p0.2 := by
  rw [compilePattern] at compiled
  split at compiled
  case h_1 p3 p2 p1 p0 h3 h2 h1 h0 =>
    obtain ⟨rfl, rfl⟩ := Prod.mk.inj (Option.some.inj compiled)
    exact ⟨p3, p2, p1, p0, h3, h2, h1, h0, rfl, rfl⟩
  case h_2 => cases compiled

/-- A word is four nibbles (R91). -/
theorem word_eq_nibbles_iff (w : Word) (b3 b2 b1 b0 : Nibble) :
    w = b3 ++ b2 ++ b1 ++ b0 ↔ w.extractLsb' 12 4 = b3 ∧ w.extractLsb' 8 4 = b2 ∧
      w.extractLsb' 4 4 = b1 ∧ w.extractLsb' 0 4 = b0 := by
  have nibbles : b3 ++ b2 ++ b1 ++ b0 = encodeXYN b3 b2.toFin b1.toFin b0 := rfl
  rw [nibbles]
  constructor
  · rintro rfl
    simp
  · rintro ⟨h3, h2, h1, h0⟩
    apply word_ext_xy <;> simp [*]

/-- Settles O6: the word under the mask is the match nibble by nibble, and each nibble is one compiled
character's. -/
theorem compiledPatternMatchesByNibble : Obligations.CompiledPatternMatchesByNibble := by
  intro c3 c2 c1 c0 m k w compiled
  obtain ⟨p3, p2, p1, p0, h3, h2, h1, h0, rfl, rfl⟩ := compilePattern_eq_some compiled
  obtain ⟨k3, k2, k1, k0⟩ := (word_eq_nibbles_iff _ p3.2 p2.2 p1.2 p0.2).mp rfl
  rw [respondsTo_iff, word_eq_nibbles_iff, BitVec.extractLsb'_and, BitVec.extractLsb'_and,
    BitVec.extractLsb'_and, BitVec.extractLsb'_and, k3, k2, k1, k0, matches_compileChar h3,
    matches_compileChar h2, matches_compileChar h1, matches_compileChar h0]

/-! ### Words of the spec -/

/-- Settles O1, each word by running the decoder on it. -/
theorem specWordsDecode : Obligations.SpecWordsDecode := by
  unfold Obligations.SpecWordsDecode
  decide

end Sys2Proof

namespace Sys2Proof.Machine

theorem tookFault_raise (s : State) (c : Cause) (w : Word) : TookFault s (s.raise c w) c w :=
  ⟨rfl, rfl, fun _ => rfl, rfl, rfl, ⟨rfl, rfl⟩, fun _ => rfl, fun _ _ => rfl, rfl, rfl, rfl⟩

/-- Settles O44: a word that decodes to none faults before the handler; the handler of 0NNN faults with
the word its instruction encodes to, which is the one fetched. -/
theorem unsupportedWordFaults : Obligations.UnsupportedWordFaults := by
  intro s running fetchable unsupported
  refine ⟨s.sample.raise .unsupportedInstruction s.wordAtPc, ?_, tookFault_raise _ _ _⟩
  obtain ⟨odd, -⟩ | ⟨-, beyond, -⟩ | ⟨-, -, faults⟩ | ⟨-, i, decoded, handled⟩ := step_spec s running
  · cases odd.symm.trans fetchable.1
  · exact absurd fetchable.2 (Nat.not_le.mpr beyond)
  · exact faults
  · obtain unmatched | ⟨nnn, sys⟩ := unsupported
    · cases unmatched.symm.trans decoded
    · obtain rfl : i = .sysNnn nnn := Option.some.inj (decoded.symm.trans sys)
      rw [handled, ← encode_of_decode decoded]
      rfl

end Sys2Proof.Machine

namespace Sys2Proof.Machine

/-! ### The step in each case of the fetch (R120, R121) -/

section
variable {s : State}

theorem State.pc_odd_iff : s.pc.getLsbD 0 = true ↔ s.pc.toNat % 2 = 1 := by
  rw [BitVec.getLsbD, Nat.testBit_zero, decide_eq_true_iff]

theorem State.pc_even_iff : s.pc.getLsbD 0 = false ↔ s.pc.toNat % 2 = 0 := by
  rw [BitVec.getLsbD, Nat.testBit_zero, decide_eq_false_iff_not, Nat.mod_two_not_eq_one]

theorem step_of_odd (running : s.running) (odd : s.pc.getLsbD 0 = true) :
    step s = .next (s.sample.raise .misalignedFetch 0) := by
  obtain ⟨-, faults⟩ | ⟨even, -⟩ | ⟨⟨even, -⟩, -⟩ | ⟨⟨even, -⟩, -⟩ := step_spec s running
  · exact faults
  all_goals cases odd.symm.trans even

theorem step_of_beyond (running : s.running) (even : s.pc.getLsbD 0 = false)
    (beyond : 0xFFE < s.pc.toNat) : step s = .next (s.sample.raise .addressOutOfRange 0) := by
  obtain ⟨odd, -⟩ | ⟨-, -, faults⟩ | ⟨⟨-, inRange⟩, -⟩ | ⟨⟨-, inRange⟩, -⟩ := step_spec s running
  · cases odd.symm.trans even
  · exact faults
  all_goals exact absurd beyond (Nat.not_lt.mpr inRange)

theorem step_of_decode {i : Instr} (running : s.running) (fetchable : s.fetchable)
    (decoded : decode s.wordAtPc = some i) : step s = exec i s.sample := by
  obtain ⟨odd, -⟩ | ⟨-, beyond, -⟩ | ⟨-, unmatched, -⟩ | ⟨-, j, decoded', handled⟩ :=
    step_spec s running
  · cases odd.symm.trans fetchable.1
  · exact absurd fetchable.2 (Nat.not_le.mpr beyond)
  · cases unmatched.symm.trans decoded
  · obtain rfl : i = j := Option.some.inj (decoded.symm.trans decoded')
    exact handled

end

/-- Settles O41: the one case of the fetch that its premises leave. -/
theorem stepRunsTheDecodedInstruction : Obligations.StepRunsTheDecodedInstruction :=
  fun _ _ => step_of_decode

/-- Settles O43: the fetch tests the lowest bit of `pc` before its size. -/
theorem fetchFaultsInOrder : Obligations.FetchFaultsInOrder := by
  refine fun s running => ⟨fun odd => ?_, fun even beyond => ?_⟩
  · exact ⟨_, step_of_odd running (State.pc_odd_iff.mpr odd), tookFault_raise _ _ _⟩
  · have pastLastWord : 0xFFE < s.pc.toNat := by omega
    exact ⟨_, step_of_beyond running (State.pc_even_iff.mpr even) pastLastWord, tookFault_raise _ _ _⟩

/-- Settles O53: the jump writes to `pc` what it holds, and sampling touches nothing a self-jump rests
on. -/
theorem selfJumpStays : Obligations.SelfJumpStays := by
  intro s atSelfJump
  have ⟨running, fetchable, nnn, decoded, target⟩ := atSelfJump
  have jumped : step s = .next (s.sample.setPc (targetOf nnn)) :=
    step_of_decode running fetchable decoded
  rw [target] at jumped
  exact ⟨jumped, atSelfJump⟩

/-! ### Where `pc` goes (R122, R268) -/

/-- Only a fault halts a running machine, and it leaves `pc` alone. -/
theorem exec_keeps_pc_of_halts {i : Instr} {s t : State} (running : s.running)
    (executed : exec i s = .next t) (halts : t.fault.halted = true) : t.pc = s.pc := by
  obtain ⟨u, completes, sameFault⟩ | ⟨c, -, faults⟩ := exec_spec i s
  · obtain rfl : t = u := Host.Outcome.next.inj (executed.symm.trans completes)
    rw [sameFault, running] at halts
    cases halts
  · obtain rfl : t = s.raiseBy c i := Host.Outcome.next.inj (executed.symm.trans faults)
    exact State.raiseBy_pc s c i

/-- Settles O49: without a fault by the effect of the handler, which moves `pc` as its class says. -/
theorem pcMovesByClass : Obligations.PcMovesByClass := fun _ _ _ running executed =>
  ⟨(effect_of_exec executed).pcAfter, exec_keeps_pc_of_halts running executed⟩

/-! ### What a skip does not read (R123) -/

/-- The condition of a skip is over registers and the sampled key alone. -/
theorem exec_withMem_of_skip {i : Instr} {s t : State} (m : Memory) (skips : i.pcClass = .skip) :
    exec i s = .next t → exec i { s with mem := m } = .next { t with mem := m } := by
  cases i with
  | seVxNn | sneVxNn | seVxVy | sneVxVy | skpVx | sknpVx => rintro ⟨⟩; rfl
  | _ => cases skips

/-- Settles O22: the fetch faults without reading memory, or it reads the same word from both, and the
skip of that word reads none. -/
theorem skippedWordIsNotRead : Obligations.SkippedWordIsNotRead := by
  intro s m i decoded skips sameWord t stepped
  have running : s.running := running_of_step_next stepped
  obtain ⟨odd, faults⟩ | ⟨even, beyond, faults⟩ | ⟨-, unmatched, -⟩ | ⟨fetchable, -⟩ :=
    step_spec s running
  · obtain rfl := Host.Outcome.next.inj (stepped.symm.trans faults)
    exact step_of_odd (s := { s with mem := m }) running odd
  · obtain rfl := Host.Outcome.next.inj (stepped.symm.trans faults)
    exact step_of_beyond (s := { s with mem := m }) running even beyond
  · cases unmatched.symm.trans decoded
  · have executed : exec i s.sample = .next t :=
      (step_of_decode running fetchable decoded).symm.trans stepped
    have decoded' : decode ({ s with mem := m } : State).wordAtPc = some i := sameWord ▸ decoded
    exact (step_of_decode (s := { s with mem := m }) running fetchable decoded').trans
      (exec_withMem_of_skip m skips executed)

end Sys2Proof.Machine

namespace Sys2Proof

/-- The word of a well-formed instruction is its encoding, which decodes to it (R92, R97). -/
theorem isWordOf_of_encode {i : Instr} {w : Word} (wf : i.wellFormed = true) (encodes : encode i = w) :
    Machine.IsWordOf w i :=
  ⟨encodes, encodes ▸ decode_encode wf⟩

end Sys2Proof

namespace Sys2Proof.Machine

/-! ### Registers written, `pc` moved by 2, everything else kept (R122) -/

theorem keepsAllButV_next2 (s : State) (V : Vector Byte 16) :
    KeepsAllButV s ({ s with V := V } : State).next2 :=
  ⟨rfl, rfl, ⟨rfl, rfl⟩, fun _ => rfl, fun _ _ => rfl, rfl, rfl, rfl, rfl⟩

/-- A handler that writes registers alone and moves on to the next word completes with the frame of this
group; what is left to say is what the registers hold. -/
theorem completes_of_registers {i : Instr} {s : State} {Registers : State → Prop} (V : Vector Byte 16)
    (executed : exec i s = .next ({ s with V := V } : State).next2)
    (registers : Registers ({ s with V := V } : State).next2) :
    Completes i s fun t => Registers t ∧ t.pc = s.pc + 2 ∧ KeepsAllButV s t :=
  ⟨_, executed, registers, State.next2_pc _, keepsAllButV_next2 s V⟩

/-! ### Registers after an update, as numbers and by their bits (R22, R141) -/

section
variable (s : State) (x q : RegIdx) (b f : Byte)

theorem State.toNat_getV_setV :
    ((s.setV x b).getV q).toNat = if q = x then b.toNat else (s.getV q).toNat := by
  rw [State.getV_setV, apply_ite BitVec.toNat]

theorem State.getLsbD_getV_setV (k : Nat) :
    ((s.setV x b).getV q).getLsbD k = if q = x then b.getLsbD k else (s.getV q).getLsbD k := by
  rw [State.getV_setV, apply_ite (BitVec.getLsbD · k)]

theorem State.toNat_getV_setResultThenFlag :
    ((s.setResultThenFlag x b f).getV q).toNat =
      if q = VF then f.toNat else if q = x then b.toNat else (s.getV q).toNat := by
  rw [State.getV_setResultThenFlag, apply_ite BitVec.toNat, apply_ite BitVec.toNat]

theorem State.toNat_getV_setFlagThenResult :
    ((s.setFlagThenResult x b f).getV q).toNat =
      if q = x then b.toNat else if q = VF then f.toNat else (s.getV q).toNat := by
  rw [State.getV_setFlagThenResult, apply_ite BitVec.toNat, apply_ite BitVec.toNat]

end

/-! ### Flags as numbers (R23) -/

theorem toNat_flagByte (c : Bool) : (flagByte c).toNat = c.toNat := by
  cases c with
  | false | true => rfl

theorem toNat_flagByte_decide (p : Prop) [Decidable p] :
    (flagByte (decide p)).toNat = if p then 1 else 0 := by
  rw [toNat_flagByte, Bool.toNat, Bool.cond_decide]

theorem toNat_carryFlag (a b : Byte) :
    (carryFlag a b).toNat = if a.toNat + b.toNat > 255 then 1 else 0 := toNat_flagByte_decide _

theorem toNat_greaterFlag (minuend subtrahend : Byte) :
    (greaterFlag minuend subtrahend).toNat = if minuend.toNat > subtrahend.toNat then 1 else 0 :=
  toNat_flagByte_decide _

theorem toNat_lowBitFlag (b : Byte) : (lowBitFlag b).toNat = b.toNat % 2 := by
  rw [lowBitFlag, toNat_flagByte, BitVec.getLsbD, Nat.toNat_testBit, pow_zero, Nat.div_one]

theorem toNat_highBitFlag (b : Byte) : (highBitFlag b).toNat = b.toNat / 128 := by
  have oneBit : b.toNat / 128 < 2 := Nat.div_lt_of_lt_mul b.isLt
  rw [highBitFlag, toNat_flagByte, BitVec.getLsbD, Nat.toNat_testBit]
  exact Nat.mod_eq_of_lt oneBit

/-! ### Results as numbers (R149 to R152) -/

/-- The difference of two bytes modulo 256, as the spec's numbers have it. -/
theorem toNat_sub_byte (a b : Byte) : ((a - b).toNat : Int) = ((a.toNat : Int) - b.toNat) % 256 := by
  bv_omega

theorem toNat_shiftRight_one (b : Byte) : (b >>> 1).toNat = b.toNat / 2 := by
  rw [BitVec.toNat_ushiftRight, Nat.shiftRight_one]

theorem toNat_shiftLeft_one (b : Byte) : (b <<< 1).toNat = b.toNat * 2 % 256 := by
  rw [BitVec.toNat_shiftLeft, Nat.shiftLeft_eq, pow_one]

/-! ### The statements -/

/-- Settles O7, by the read of a register after a write. -/
theorem loadImmediate : Obligations.LoadImmediate := fun x nn s =>
  ⟨isWordOf_of_encode rfl rfl, completes_of_registers _ rfl fun r => s.getV_setV x r nn⟩

/-- Settles O8: the sum of two bytes is the sum modulo 256. -/
theorem addImmediate : Obligations.AddImmediate := by
  refine fun x nn s => ⟨isWordOf_of_encode rfl rfl, completes_of_registers _ rfl fun r => ?_⟩
  exact (s.toNat_getV_setV x r _).trans (by rw [BitVec.toNat_add])

/-- Settles O9: each logical operation on bytes is that operation on every bit. -/
theorem copyAndLogic : Obligations.CopyAndLogic := by
  refine fun x y s => ⟨⟨isWordOf_of_encode rfl rfl, completes_of_registers _ rfl ?copy⟩,
    ⟨isWordOf_of_encode rfl rfl, completes_of_registers _ rfl ?or⟩,
    ⟨isWordOf_of_encode rfl rfl, completes_of_registers _ rfl ?and⟩,
    ⟨isWordOf_of_encode rfl rfl, completes_of_registers _ rfl ?xor⟩⟩
  case copy => exact fun r => s.getV_setV x r _
  case or => exact fun r k => (s.getLsbD_getV_setV x r _ k).trans (by rw [BitVec.getLsbD_or])
  case and => exact fun r k => (s.getLsbD_getV_setV x r _ k).trans (by rw [BitVec.getLsbD_and])
  case xor => exact fun r k => (s.getLsbD_getV_setV x r _ k).trans (by rw [BitVec.getLsbD_xor])

/-- Settles O10: the carry is written last, so it stands in VF for X = F too (R141(a)). -/
theorem addWithCarry : Obligations.AddWithCarry := by
  refine fun x y s => ⟨isWordOf_of_encode rfl rfl, completes_of_registers _ rfl fun r => ?_⟩
  exact (s.toNat_getV_setResultThenFlag x r _ _).trans (by rw [toNat_carryFlag, BitVec.toNat_add])

/-- A difference and its flag, written in this order, as integers (R141(a), R149, R151). -/
theorem State.toNat_getV_setDifference (s : State) (x q : RegIdx) (a b : Byte) :
    (((s.setResultThenFlag x (a - b) (greaterFlag a b)).getV q).toNat : Int) =
      if q = VF then (if a.toNat > b.toNat then 1 else 0)
      else if q = x then ((a.toNat : Int) - b.toNat) % 256
      else (s.getV q).toNat := by
  rw [State.toNat_getV_setResultThenFlag, toNat_greaterFlag, ← toNat_sub_byte]
  simp only [Nat.cast_ite, Nat.cast_one, Nat.cast_zero]

/-- Settles O11: the two differ in which operand is the minuend. -/
theorem subtractBothWays : Obligations.SubtractBothWays := fun x y s =>
  ⟨⟨isWordOf_of_encode rfl rfl, completes_of_registers _ rfl fun r =>
      s.toNat_getV_setDifference x r (s.getV x) (s.getV y)⟩,
    ⟨isWordOf_of_encode rfl rfl, completes_of_registers _ rfl fun r =>
      s.toNat_getV_setDifference x r (s.getV y) (s.getV x)⟩⟩

/-- Settles O12: the result is written last, so it stands in VF for X = F (R141(b)). -/
theorem shiftBothWays : Obligations.ShiftBothWays := by
  refine fun x y s => ⟨⟨isWordOf_of_encode rfl rfl, completes_of_registers _ rfl fun r => ?right⟩,
    ⟨isWordOf_of_encode rfl rfl, completes_of_registers _ rfl fun r => ?left⟩⟩
  case right =>
    exact (s.toNat_getV_setFlagThenResult x r _ _).trans
      (by rw [toNat_shiftRight_one, toNat_lowBitFlag])
  case left =>
    exact (s.toNat_getV_setFlagThenResult x r _ _).trans
      (by rw [toNat_shiftLeft_one, toNat_highBitFlag])

/-- Settles O13: the mask is taken bit by bit from the sample in `port`. -/
theorem randomUnderMask : Obligations.RandomUnderMask := by
  refine fun x nn s => ⟨isWordOf_of_encode rfl rfl, completes_of_registers _ rfl fun r k => ?_⟩
  exact (s.getLsbD_getV_setV x r _ k).trans (by rw [BitVec.getLsbD_and])

end Sys2Proof.Machine

namespace Sys2Proof.Machine

/-! ### The faults of the next fetch (R121) -/

theorem fetch_of_odd {s : State} (odd : s.pc.getLsbD 0 = true) : fetch s = .error .misalignedFetch := by
  obtain ⟨-, faults⟩ | ⟨even, -⟩ | ⟨⟨even, -⟩, -⟩ := fetch_spec s
  · exact faults
  all_goals cases odd.symm.trans even

theorem fetch_of_beyond {s : State} (even : s.pc.getLsbD 0 = false) (beyond : 0xFFE < s.pc.toNat) :
    fetch s = .error .addressOutOfRange := by
  obtain ⟨odd, -⟩ | ⟨-, -, faults⟩ | ⟨⟨-, inRange⟩, -⟩ := fetch_spec s
  · cases odd.symm.trans even
  · exact faults
  · exact absurd beyond (Nat.not_lt.mpr inRange)

/-! ### What a jump, a call and a return keep (R160 to R163) -/

theorem getLsbD_targetOf (nnn : Addr) (k : Nat) : (targetOf nnn).getLsbD k = nnn.getLsbD k :=
  congrArg (Nat.testBit · k) (toNat_targetOf nnn)

theorem keepsAllButPc_setPc (s : State) (a : Pc) : KeepsAllButPc s (s.setPc a) :=
  ⟨s.getV_setPc a, rfl, rfl, ⟨rfl, rfl⟩, fun _ => rfl, fun _ _ => rfl, rfl, rfl, rfl, rfl⟩

theorem keepsAllButStack_setPc (s : State) (stack : List Pc) (a : Pc) :
    KeepsAllButStack s (({ s with stack := stack } : State).setPc a) :=
  ⟨fun _ => rfl, rfl, ⟨rfl, rfl⟩, fun _ => rfl, fun _ _ => rfl, rfl, rfl, rfl, rfl⟩

/-! ### The handlers that fault (R264, R265, R268) -/

theorem exec_call_of_full {nnn : Addr} {s : State} (full : Config.stackDepth ≤ s.stack.length) :
    exec (.callNnn nnn) s = .next (s.raiseBy .stackOverflow (.callNnn nnn)) := by
  obtain ⟨-, room⟩ | ⟨refused, -⟩ := s.push_spec s.pc
  · exact absurd room (Nat.not_lt.mpr full)
  · simp only [exec, execCallNnn, refused]

theorem exec_ret_of_empty {s : State} (empty : s.stack = []) :
    exec .ret s = .next (s.raiseBy .stackUnderflow .ret) := by
  obtain ⟨v, rest, top, -⟩ | ⟨-, refused⟩ := s.pop_spec
  · cases empty.symm.trans top
  · simp only [exec, execRet, refused]

/-- A handler's own fault records the word of its instruction and changes nothing else (log 15). -/
theorem completes_of_raiseBy {i : Instr} {s : State} {c : Cause} {w : Word} (encodes : encode i = w)
    (executed : exec i s = .next (s.raiseBy c i)) : Completes i s fun t => TookFault s t c w :=
  ⟨_, executed, encodes ▸ tookFault_raise s c (encode i)⟩

/-! ### The statements -/

/-- Settles O14: zero-extension keeps the lowest bit of `nnn`, which the next fetch tests first. -/
theorem jumpAbsolute : Obligations.JumpAbsolute := fun nnn s =>
  ⟨isWordOf_of_encode rfl rfl, s.setPc (targetOf nnn), rfl, toNat_targetOf nnn,
    keepsAllButPc_setPc s _, fun odd => fetch_of_odd ((getLsbD_targetOf nnn 0).trans odd)⟩

/-- Settles O15: the sum of 12 and 8 bits fits in `pc`; the two clauses are the two faults of the fetch,
in its order. -/
theorem jumpPlusV0 : Obligations.JumpPlusV0 := by
  refine fun nnn s => ⟨isWordOf_of_encode rfl rfl, s.setPc (s.targetPlusV0 nnn), rfl,
    s.toNat_targetPlusV0 nnn, keepsAllButPc_setPc s _, fun odd => ?_, fun even beyond => ?_⟩
  · exact fetch_of_odd (State.pc_odd_iff.mpr odd)
  · exact fetch_of_beyond (State.pc_even_iff.mpr even) (by omega)

/-- Settles O16: the two clauses are the two answers of `push`. -/
theorem callPushesItsAddress : Obligations.CallPushesItsAddress := by
  refine fun nnn s => ⟨isWordOf_of_encode rfl rfl, fun room => ?_, fun full => ?_⟩
  · exact ⟨_, exec_call_of_room room, rfl, toNat_targetOf nnn, keepsAllButStack_setPc s _ _⟩
  · exact completes_of_raiseBy rfl (exec_call_of_full full)

/-- Settles O17: the two clauses are the two answers of `pop`. -/
theorem returnResumesAfterTheCall : Obligations.ReturnResumesAfterTheCall := by
  refine fun s => ⟨isWordOf_of_encode rfl rfl, fun v rest top => ?_, fun empty => ?_⟩
  · exact ⟨_, exec_ret_of_cons top, rfl, rfl, keepsAllButStack_setPc s _ _⟩
  · exact completes_of_raiseBy rfl (exec_ret_of_empty empty)

/-- Settles O18: the two operands left out are the two that make 0NNN ill-formed (R99). -/
theorem nativeCallFaults : Obligations.NativeCallFaults := by
  refine fun nnn s => ⟨fun notCls notRet => ?_, completes_of_raiseBy rfl rfl⟩
  have wf : (Instr.sysNnn nnn).wellFormed = true :=
    (Instr.wellFormed_iff _).mpr ⟨mt Instr.sysNnn.inj notCls, mt Instr.sysNnn.inj notRet⟩
  exact isWordOf_of_encode wf rfl

end Sys2Proof.Machine

namespace Sys2Proof.Machine

/-! ### Conditional skips (R122, R170 to R173) -/

section
variable {i : Instr} (s : State) (a b : Byte)

theorem State.skipIf_beq_pc :
    (s.skipIf (a == b)).pc = if a.toNat = b.toNat then s.pc + 4 else s.pc + 2 := by
  simp only [State.skipIf_pc, beq_iff_eq, ← BitVec.toNat_inj, apply_ite (s.pc + ·)]

theorem State.skipIf_bne_pc :
    (s.skipIf (a != b)).pc = if a.toNat = b.toNat then s.pc + 2 else s.pc + 4 := by
  simp only [State.skipIf_pc, bne_iff_ne, ne_eq, ite_not, ← BitVec.toNat_inj, apply_ite (s.pc + ·)]

variable {s a b}

/-- A handler that skips and does nothing else completes with the frame of this group; what is left to
say is where its condition takes `pc`. -/
theorem completes_of_skipIf {cond : Bool} {target : Pc} (executed : exec i s = .next (s.skipIf cond))
    (moves : (s.skipIf cond).pc = target) :
    Completes i s fun t => t.pc = target ∧ KeepsAllButPc s t :=
  ⟨_, executed, moves, keepsAllButPc_setPc s _⟩

theorem completes_of_skipIf_beq (executed : exec i s = .next (s.skipIf (a == b))) :
    Completes i s fun t =>
      (t.pc = if a.toNat = b.toNat then s.pc + 4 else s.pc + 2) ∧ KeepsAllButPc s t :=
  completes_of_skipIf executed (s.skipIf_beq_pc a b)

theorem completes_of_skipIf_bne (executed : exec i s = .next (s.skipIf (a != b))) :
    Completes i s fun t =>
      (t.pc = if a.toNat = b.toNat then s.pc + 2 else s.pc + 4) ∧ KeepsAllButPc s t :=
  completes_of_skipIf executed (s.skipIf_bne_pc a b)

end

/-- Settles O20: 3XNN skips on equality of the register and the operand, 4XNN on inequality (log 12). -/
theorem skipOnImmediate : Obligations.SkipOnImmediate := fun _ _ _ =>
  ⟨isWordOf_of_encode rfl rfl, isWordOf_of_encode rfl rfl,
    completes_of_skipIf_beq rfl, completes_of_skipIf_bne rfl⟩

/-- Settles O21: the same on two registers; nothing asks that they differ. -/
theorem skipOnRegister : Obligations.SkipOnRegister := fun _ _ _ =>
  ⟨isWordOf_of_encode rfl rfl, isWordOf_of_encode rfl rfl,
    completes_of_skipIf_beq rfl, completes_of_skipIf_bne rfl⟩

end Sys2Proof.Machine

namespace Sys2Proof.Machine

/-! ### Rounding (R181; log 7) -/

/-- The words of the statements and the model's `round` name the same integer. -/
theorem isRounded_iff {d : Rat} {k : Int} : IsRounded d k ↔ roundNearest .toEven d = k := by
  rw [IsRounded, abs_le]
  constructor
  · rintro ⟨⟨lower, upper⟩, even⟩
    exact roundNearest_unique d k lower upper even
  · rintro rfl
    obtain ⟨lower, upper, even⟩ := roundNearest_spec d
    exact ⟨⟨lower, upper⟩, even⟩

theorem roundNearest_intCast (k : Int) : roundNearest .toEven k = k :=
  isRounded_iff.mp (by rw [IsRounded, sub_self]; norm_num)

/-- One half lies between 0 and 1, of which 0 is even. -/
theorem roundNearest_half : roundNearest .toEven (1 / 2) = 0 :=
  isRounded_iff.mp (by rw [IsRounded]; norm_num)

/-- Were the results to cross, both arguments would be the midpoint of two neighbouring integers, and
both of these would be even. -/
theorem roundNearest_mono : Monotone (roundNearest .toEven) := by
  intro d e d_le_e
  obtain ⟨d_lower, -, d_even⟩ := roundNearest_spec d
  obtain ⟨-, e_upper, e_even⟩ := roundNearest_spec e
  generalize roundNearest .toEven d = j at d_lower d_even ⊢
  generalize roundNearest .toEven e = k at e_upper e_even ⊢
  by_contra! crossed
  have j_ge : (k : Rat) + 1 ≤ j := by exact_mod_cast crossed
  have d_eq : d - j = -(1 / 2) := by linarith
  have e_eq : e - k = 1 / 2 := by linarith
  have j_eq : j = k + 1 := by exact_mod_cast (by linarith : (j : Rat) = k + 1)
  have j_even : j % 2 = 0 := d_even (by rw [d_eq, abs_neg, abs_of_pos one_half_pos])
  have k_even : k % 2 = 0 := e_even (by rw [e_eq, abs_of_pos one_half_pos])
  omega

/-! ### Reading a timer (R181 to R183) -/

theorem timerRead_mono {target now target' now' : Rat} (less : target - now ≤ target' - now') :
    timerRead target now ≤ timerRead target' now' :=
  max_le_max le_rfl (roundNearest_mono less)

theorem timerRead_of_sub_eq_intCast {target now : Rat} {k : Int} (ahead : target - now = k) :
    timerRead target now = max 0 k := by
  rw [timerRead, ahead]
  exact congrArg (max 0) (roundNearest_intCast k)

theorem timerRead_le_of_le_add {target now : Rat} (bounded : target ≤ now + 255) :
    timerRead target now ≤ 255 :=
  calc timerRead target now
    _ ≤ timerRead 255 0 := timerRead_mono (by linarith)
    _ = 255 := timerRead_of_sub_eq_intCast (k := 255) (by norm_num)

/-- The tie goes down to 0, so the last half unit already reads 0. -/
theorem timerRead_eq_zero_of_le_half {target now : Rat} (near : target - now ≤ 1 / 2) :
    timerRead target now = 0 := by
  refine le_antisymm ?_ (timerRead_nonneg target now)
  calc timerRead target now
    _ ≤ timerRead (1 / 2) 0 := timerRead_mono (by linarith)
    _ = max 0 (roundNearest .toEven (1 / 2)) := by rw [timerRead, sub_zero]; rfl
    _ = 0 := by rw [roundNearest_half, max_self]

theorem timerRead_timerTarget_add (v : Byte) (n : Rat) (k : Nat) :
    timerRead (timerTarget n v) (n + k) = ((v.toNat - k : Nat) : Int) := by
  have ahead : timerTarget n v - (n + k) = ((v.toNat - k : Int) : Rat) := by
    rw [timerTarget, add_sub_add_left_eq_sub, Int.cast_sub, Int.cast_natCast, Int.cast_natCast]
  rw [timerRead_of_sub_eq_intCast ahead]
  omega

/-! ### What a timer instruction stores and keeps (R22, R185 to R187) -/

/-- A register keeps an integer modulo 256 (R22). -/
theorem toNat_ofInt_byte (i : Int) : ((BitVec.ofInt 8 i).toNat : Int) = i % 256 := by
  rw [BitVec.toNat_ofInt]
  exact Int.toNat_of_nonneg (Int.emod_nonneg i (by decide))

theorem State.toNat_getV_setV_ofInt (s : State) (x : RegIdx) (i : Int) :
    (((s.setV x (BitVec.ofInt 8 i)).getV x).toNat : Int) = i % 256 := by
  rw [State.toNat_getV_setV, if_pos rfl, toNat_ofInt_byte]

/-- Everything but the timer targets and `pc`. -/
def KeepsAllButTimers (s t : State) : Prop :=
  SameV s t ∧ t.I = s.I ∧ t.stack = s.stack ∧ SameMem s t ∧ SameDisp s t ∧
    t.fault = s.fault ∧ SameInputs s t

theorem keepsAllButTimers_next2 (s : State) (dt st : Rat) :
    KeepsAllButTimers s ({ s with dtTarget := dt, stTarget := st } : State).next2 :=
  ⟨fun _ => rfl, rfl, rfl, fun _ => rfl, fun _ _ => rfl, rfl, rfl, rfl, rfl⟩

/-! ### The statements -/

/-- Settles O24: the register holds the reading modulo 256, which up to 255 ahead is the reading. -/
theorem delayTimerRead : Obligations.DelayTimerRead := by
  refine fun x s => ⟨isWordOf_of_encode rfl rfl, _, rfl,
    ⟨roundNearest .toEven (s.dtTarget - s.port.now), isRounded_iff.mpr rfl,
      s.toNat_getV_setV_ofInt x s.delayTimer, fun bounded => ?whole⟩,
    fun r notX => (s.getV_setV x r _).trans (if_neg notX), rfl, keepsAllButV_next2 s _⟩
  case whole =>
    have isByte : s.delayTimer < 256 := Int.lt_add_one_of_le (timerRead_le_of_le_add bounded)
    exact (s.toNat_getV_setV_ofInt x s.delayTimer).trans
      (Int.emod_eq_of_lt (timerRead_nonneg _ _) isByte)

/-- Settles O25: each clause is a fact about reading a timer, the first one an advance by 0. -/
theorem timerCountsDown : Obligations.TimerCountsDown := by
  refine fun v n p q => ⟨?written, fun _ p_le_q => ?falls, fun near => ?zero,
    timerRead_timerTarget_add v n⟩
  case written =>
    have readsLeft := timerRead_timerTarget_add v n 0
    rwa [Nat.cast_zero, add_zero, Nat.sub_zero] at readsLeft
  case falls => exact timerRead_mono (sub_le_sub_left p_le_q _)
  case zero =>
    refine timerRead_eq_zero_of_le_half ?_
    rw [timerTarget]
    linarith

/-- Settles O58, by the bounds of the invariant on the two targets. -/
theorem timersReadAByte : Obligations.TimersReadAByte := fun _ inv =>
  ⟨timerRead_nonneg _ _, timerRead_le_of_le_add inv.delayBounded,
    timerRead_nonneg _ _, timerRead_le_of_le_add inv.soundBounded⟩

/-- Settles O23: each handler writes one target, and both move on to the next word. -/
theorem timerWrites : Obligations.TimerWrites := fun _ s =>
  ⟨isWordOf_of_encode rfl rfl, isWordOf_of_encode rfl rfl,
    ⟨_, rfl, rfl, rfl, rfl, keepsAllButTimers_next2 s _ _⟩,
    ⟨_, rfl, rfl, rfl, rfl, keepsAllButTimers_next2 s _ _⟩⟩

end Sys2Proof.Machine

namespace Sys2Proof.Machine

/-! ### Which blocks at I exist (R61, R77) -/

section
variable {s : State} {k : Nat} {bs : List Byte}

/-- The last byte of a block of `k + 1` at I exists exactly where the whole block does. -/
theorem State.addrAtI_le_iff : s.addrAtI k ≤ 0xFFF ↔ s.addrAtI 0 + (k + 1) ≤ Config.memSize := by
  simp only [State.addrAtI, Config.memSize]
  omega

theorem State.memWrite_of_inRange (length : bs.length = k + 1) (inRange : s.addrAtI k ≤ 0xFFF) :
    s.memWrite (s.addrAtI 0) bs = some { s with mem := s.mem.writeBytes (s.addrAtI 0) bs } := by
  obtain ⟨stored, -⟩ | ⟨-, -, beyond⟩ := s.memWrite_spec (s.addrAtI 0) bs
  · exact stored
  · exact absurd (State.addrAtI_le_iff.mp inRange) (Nat.not_le.mpr (length ▸ beyond))

theorem State.memWrite_of_outOfRange (length : bs.length = k + 1) (beyond : 0xFFF < s.addrAtI k) :
    s.memWrite (s.addrAtI 0) bs = none := by
  obtain ⟨-, empty | fits⟩ | ⟨refused, -⟩ := s.memWrite_spec (s.addrAtI 0) bs
  · cases (congrArg List.length empty).symm.trans length
  · exact absurd beyond (Nat.not_lt.mpr (State.addrAtI_le_iff.mpr (length ▸ fits)))
  · exact refused

theorem State.memRead_of_inRange (inRange : s.addrAtI k ≤ 0xFFF) :
    s.memRead (s.addrAtI 0) (k + 1) = some (s.mem.readBytes (s.addrAtI 0) (k + 1)) := by
  obtain ⟨loaded, -⟩ | ⟨-, -, beyond⟩ := s.memRead_spec (s.addrAtI 0) (k + 1)
  · exact loaded
  · exact absurd (State.addrAtI_le_iff.mp inRange) (Nat.not_le.mpr beyond)

theorem State.memRead_of_outOfRange (beyond : 0xFFF < s.addrAtI k) :
    s.memRead (s.addrAtI 0) (k + 1) = none := by
  obtain ⟨-, empty | fits⟩ | ⟨refused, -⟩ := s.memRead_spec (s.addrAtI 0) (k + 1)
  · cases empty
  · exact absurd beyond (Nat.not_lt.mpr (State.addrAtI_le_iff.mpr fits))
  · exact refused

/-! ### What a block at I holds, and what a store leaves (R61, R69) -/

/-- Byte k of a block stored at I stands at I + k. -/
theorem State.read_writeBytes_addrAtI (stored : k < bs.length) :
    Memory.read (s.mem.writeBytes (s.addrAtI 0) bs) (s.addrAtI k) = bs[k] := by
  rw [Memory.read_writeBytes, dif_pos (by simp only [State.addrAtI]; omega)]
  simp only [State.addrAtI, Nat.add_zero, Nat.add_sub_cancel_left]

/-- The bytes before and behind the block, `pc`, and everything that is not memory. -/
theorem State.store_frame (length : bs.length = k + 1) :
    let t := ({ s with mem := s.mem.writeBytes (s.addrAtI 0) bs } : State).next2
    (∀ a, a < s.addrAtI 0 ∨ s.addrAtI k < a → Memory.read t.mem a = Memory.read s.mem a) ∧
      t.pc = s.pc + 2 ∧ KeepsAllButMem s t := by
  refine ⟨fun a outside => ?_, rfl,
    fun _ => rfl, rfl, rfl, ⟨rfl, rfl⟩, fun _ _ => rfl, rfl, rfl, rfl, rfl⟩
  refine (Memory.read_writeBytes _ _ _ _).trans (dif_neg ?_)
  simp only [State.addrAtI] at outside ⊢
  omega

/-- Register r after a load of V0 to Vk from I is the byte at I + r, up to r = k (R194). -/
theorem State.getV_setRegs_readBytes (r : RegIdx) :
    (s.setRegs (s.mem.readBytes (s.addrAtI 0) (k + 1))).getV r =
      if r.val ≤ k then Memory.read s.mem (s.addrAtI r.val) else s.getV r := by
  rw [State.getV_setRegs]
  simp only [Memory.length_readBytes, Memory.getElem_readBytes, Nat.lt_succ_iff, dite_eq_ite,
    State.addrAtI, Nat.add_zero]

/-! ### The three handlers, in range and out of range (R192 to R194) -/

variable {x : RegIdx}

theorem exec_ldBVx_of_inRange (inRange : s.addrAtI 2 ≤ 0xFFF) :
    exec (.ldBVx x) s =
      .next ({ s with
        mem := s.mem.writeBytes (s.addrAtI 0) (decimalDigits (s.getV x)) } : State).next2 := by
  simp only [exec, execLdBVx, State.memWrite_of_inRange (bs := decimalDigits _) rfl inRange]

theorem exec_ldBVx_of_outOfRange (beyond : 0xFFF < s.addrAtI 2) :
    exec (.ldBVx x) s = .next (s.raiseBy .addressOutOfRange (.ldBVx x)) := by
  simp only [exec, execLdBVx, State.memWrite_of_outOfRange (bs := decimalDigits _) rfl beyond]

theorem exec_ldMemIVx_of_outOfRange (beyond : 0xFFF < s.addrAtI x.val) :
    exec (.ldMemIVx x) s = .next (s.raiseBy .addressOutOfRange (.ldMemIVx x)) := by
  simp only [exec, execLdMemIVx, State.memWrite_of_outOfRange (s.length_regsUpTo x) beyond]

theorem exec_ldVxMemI_of_inRange (inRange : s.addrAtI x.val ≤ 0xFFF) :
    exec (.ldVxMemI x) s =
      .next (s.setRegs (s.mem.readBytes (s.addrAtI 0) (x.val + 1))).next2 := by
  simp only [exec, execLdVxMemI, State.memRead_of_inRange inRange]

theorem exec_ldVxMemI_of_outOfRange (beyond : 0xFFF < s.addrAtI x.val) :
    exec (.ldVxMemI x) s = .next (s.raiseBy .addressOutOfRange (.ldVxMemI x)) := by
  simp only [exec, execLdVxMemI, State.memRead_of_outOfRange beyond]

end

/-! ### Addresses and digits as numbers (R191, R192, R195) -/

theorem State.toNat_iPlus (s : State) (x : RegIdx) :
    (s.iPlus x).toNat = (s.I.toNat + (s.getV x).toNat) % 4096 := by
  rw [State.iPlus, BitVec.toNat_add, BitVec.toNat_setWidth_of_le (by decide)]

theorem toNat_glyphAddr (v : Byte) : (glyphAddr v).toNat = Config.fontBase + v.toNat % 16 * 5 := by
  have lowNibble : (v &&& 0x0F).toNat = v.toNat % 16 := Nat.and_two_pow_sub_one_eq_mod v.toNat 4
  rw [glyphAddr, BitVec.toNat_ofNat, lowNibble, Config.fontBase, Config.fontStride]
  omega

/-- Each digit of a byte is below 256, so a byte holds it whole. -/
theorem toNat_decimalDigits (v : Byte) :
    (decimalDigits v).map BitVec.toNat = [v.toNat / 100, v.toNat / 10 % 10, v.toNat % 10] := by
  have isByte := v.isLt
  simp only [decimalDigits, List.map_cons, List.map_nil, BitVec.toNat_ofNat, List.cons.injEq, and_true]
  omega

/-- Digit k of the three FX33 stores stands at I + k (R192). -/
theorem State.toNat_read_decimalDigits (s : State) (v : Byte) {k : Nat} (isDigit : k < 3) :
    (Memory.read (s.mem.writeBytes (s.addrAtI 0) (decimalDigits v)) (s.addrAtI k)).toNat =
      [v.toNat / 100, v.toNat / 10 % 10, v.toNat % 10][k] := by
  rw [State.read_writeBytes_addrAtI (bs := decimalDigits v) isDigit]
  simp only [← toNat_decimalDigits]
  exact (List.getElem_map BitVec.toNat).symm

theorem keepsAllButI_next2 (s : State) (a : Addr) : KeepsAllButI s (s.setI a).next2 :=
  ⟨fun _ => rfl, rfl, ⟨rfl, rfl⟩, fun _ => rfl, fun _ _ => rfl, rfl, rfl, rfl, rfl⟩

/-! ### The statements -/

/-- Settles O26: each handler writes I alone, so what is left is its new value as a number. -/
theorem addressRegisterWrites : Obligations.AddressRegisterWrites := fun x nnn s =>
  ⟨isWordOf_of_encode rfl rfl, isWordOf_of_encode rfl rfl, isWordOf_of_encode rfl rfl,
    ⟨_, rfl, rfl, rfl, keepsAllButI_next2 s nnn⟩,
    ⟨_, rfl, s.toNat_iPlus x, rfl, keepsAllButI_next2 s _⟩,
    ⟨_, rfl, toNat_glyphAddr (s.getV x), rfl, keepsAllButI_next2 s _⟩⟩

/-- Settles O27: the block stored is the three digits, and it is stored whole or not at all. -/
theorem storeDecimalDigits : Obligations.StoreDecimalDigits := by
  refine fun x s => ⟨isWordOf_of_encode rfl rfl, fun inRange => ?_, fun beyond => ?_⟩
  · have digit (k : Nat) (isDigit : k < 3) := s.toNat_read_decimalDigits (s.getV x) isDigit
    exact ⟨_, exec_ldBVx_of_inRange inRange, digit 0 (by decide), digit 1 (by decide),
      digit 2 (by decide), State.store_frame (bs := decimalDigits _) rfl⟩
  · exact completes_of_raiseBy rfl (exec_ldBVx_of_outOfRange beyond)

/-- Settles O28: the block stored is V0 to VX, and it is stored whole or not at all. -/
theorem storeRegisters : Obligations.StoreRegisters := by
  refine fun x s => ⟨isWordOf_of_encode rfl rfl, fun inRange => ?_, fun beyond => ?_⟩
  · exact ⟨_, exec_ldMemIVx_of_inRange inRange, fun _ => State.read_writeBytes_regsUpTo,
      State.store_frame (s.length_regsUpTo x)⟩
  · exact completes_of_raiseBy rfl (exec_ldMemIVx_of_outOfRange beyond)

/-- Settles O29: the block loaded is the bytes from I to I + X, and it is loaded whole or not at all. -/
theorem loadRegisters : Obligations.LoadRegisters := by
  refine fun x s => ⟨isWordOf_of_encode rfl rfl, fun inRange => ?_, fun beyond => ?_⟩
  · exact completes_of_registers _ (exec_ldVxMemI_of_inRange inRange) State.getV_setRegs_readBytes
  · exact completes_of_raiseBy rfl (exec_ldVxMemI_of_outOfRange beyond)

/-- Settles O30: the load reads back, at the same addresses, what the store put there. -/
theorem storeThenLoadRestores : Obligations.StoreThenLoadRestores := by
  refine fun x s inRange => ⟨_, exec_ldMemIVx_of_inRange inRange, fun u sameMem sameI => ?_⟩
  have sameAddr (k : Nat) : u.addrAtI k = s.addrAtI k := congrArg (·.toNat + k) sameI
  refine ⟨_, exec_ldVxMemI_of_inRange ((sameAddr x.val).trans_le inRange), fun r upToX => ?_⟩
  calc (u.setRegs (u.mem.readBytes (u.addrAtI 0) (x.val + 1))).getV r
    _ = Memory.read u.mem (u.addrAtI r.val) := (State.getV_setRegs_readBytes r).trans (if_pos upToX)
    _ = Memory.read (s.mem.writeBytes (s.addrAtI 0) (s.regsUpTo x)) (s.addrAtI r.val) := by
      rw [sameMem, sameAddr, State.next2_mem]
    _ = s.getV r := State.read_writeBytes_regsUpTo upToX

end Sys2Proof.Machine

namespace Sys2Proof.Machine

/-! ### The cells of a sprite (R211) -/

theorem byte_ne_zero_iff_spriteBit (b : Byte) : b ≠ 0 ↔ ∃ i < 8, spriteBit b i = true := by
  constructor
  · contrapose!
    refine fun noBit => BitVec.eq_of_getLsbD_eq fun k isBit => ?_
    have bit_off : spriteBit b (7 - k) = false := Bool.eq_false_iff.mpr (noBit (7 - k) (by omega))
    rw [spriteBit, Nat.sub_sub_self (by omega)] at bit_off
    exact bit_off.trans BitVec.getLsbD_zero.symm
  · rintro ⟨i, -, bit_on⟩ rfl
    exact absurd bit_on (by simp [spriteBit])

/-- A sprite has a cell to toggle exactly where one of its row bytes has a 1 bit. -/
theorem exists_mem_spriteCells_iff (x y j : Nat) (rows : List Byte) :
    (∃ c r, (c, r, true) ∈ spriteCells x y j rows) ↔ ∃ b ∈ rows, b ≠ 0 := by
  simp only [mem_spriteCells, byte_ne_zero_iff_spriteBit]
  constructor
  · rintro ⟨c, r, k, inRows, i, isBit, cell⟩
    have bit_on : true = spriteBit rows[k] i := congrArg (·.2.2) cell
    exact ⟨rows[k], List.getElem_mem inRows, i, isBit, bit_on.symm⟩
  · rintro ⟨b, inRows, i, isBit, bit_on⟩
    obtain ⟨k, k_lt, rfl⟩ := List.getElem_of_mem inRows
    exact ⟨_, _, k, k_lt, i, isBit, by rw [bit_on]⟩

/-- The cells with a 1 of the rows read at `a`, in the words of the statements. -/
theorem mem_spriteCells_readBytes_iff (x y a n : Nat) (m : Memory) (c : Fin 64) (r : Fin 32) :
    (c, r, true) ∈ spriteCells x y 0 (m.readBytes a n) ↔
      SpriteLandsOn x y n (fun j => m.read (a + j)) c r := by
  simp only [mem_spriteCells, SpriteLandsOn, Memory.length_readBytes, Memory.getElem_readBytes,
    Prod.mk.injEq, Fin.ext_iff, blitColumn, blitRow, Fin.val_ofNat, spriteBit, Nat.zero_add,
    eq_comm (a := true), exists_prop]

/-- An origin counts by its column modulo 64 and its row modulo 32 alone, cell by cell. -/
theorem spriteCells_congr {x x' y y' : Nat} (sameColumn : x % 64 = x' % 64)
    (sameRow : y % 32 = y' % 32) (j : Nat) (rows : List Byte) :
    spriteCells x y j rows = spriteCells x' y' j rows := by
  have column (i : Nat) : blitColumn x i = blitColumn x' i := Fin.ext (Nat.ModEq.add_right i sameColumn)
  have row (k : Nat) : blitRow y k = blitRow y' k := Fin.ext (Nat.ModEq.add_right k sameRow)
  induction rows generalizing j with
  | nil => rfl
  | cons b rest ih => simp only [spriteCells, rowCells, column, row, ih]

/-- The blit changes exactly the pixels under a 1. -/
theorem pixel_writeSprite_ne_iff (x y : Nat) {rows : List Byte} (d : Disp) (fewRows : rows.length ≤ 32)
    (c : Fin 64) (r : Fin 32) :
    (writeSprite x y rows d).1.pixel c r ≠ d.pixel c r ↔ (c, r, true) ∈ spriteCells x y 0 rows := by
  rw [← Bool.xor_iff_ne, (writeSprite_spec x y rows d fewRows).1, Bool.xor_comm, ← Bool.xor_assoc,
    Bool.xor_self, Bool.false_xor, decide_eq_true_eq]

/-! ### DXYN, in range and out of range (R213) -/

section
variable {x y : RegIdx} {n : Nibble} {s : State}

theorem exec_drwVxVyN_of_inRange (inRange : n = 0 ∨ s.addrAtI (n.toNat - 1) ≤ 0xFFF) :
    exec (.drwVxVyN x y n) s =
      .next (s.draw (s.getV x).toNat (s.getV y).toNat
        (s.mem.readBytes (s.addrAtI 0) n.toNat)).next2 := by
  obtain ⟨loaded, -⟩ | ⟨-, draws, beyond⟩ := s.memRead_spec (s.addrAtI 0) n.toNat
  · simp only [exec, execDrwVxVyN, loaded]
  · obtain rfl | fits := inRange
    · cases draws
    · simp only [State.addrAtI, Config.memSize] at fits beyond
      omega

theorem exec_drwVxVyN_of_outOfRange (draws : n ≠ 0) (beyond : 0xFFF < s.addrAtI (n.toNat - 1)) :
    exec (.drwVxVyN x y n) s = .next (s.raiseBy .addressOutOfRange (.drwVxVyN x y n)) := by
  obtain ⟨k, rows⟩ : ∃ k, n.toNat = k + 1 :=
    Nat.exists_eq_succ_of_ne_zero fun empty => draws (BitVec.eq_of_toNat_eq empty)
  rw [rows, Nat.add_sub_cancel] at beyond
  simp only [exec, execDrwVxVyN, rows, State.memRead_of_outOfRange beyond]

end

/-- Drawing writes the display and VF, moving on writes `pc`. -/
theorem keepsAllButDispVF_next2 (s : State) (cx cy : Nat) (rows : List Byte) :
    KeepsAllButDispVF s (s.draw cx cy rows).next2 :=
  ⟨fun r notVF => (s.getV_draw cx cy rows r).trans (if_neg notVF), rfl, rfl, ⟨rfl, rfl⟩, fun _ => rfl,
    rfl, rfl, rfl, rfl⟩

/-! ### Another display (R216) -/

/-- But for a DXYN in range, a handler does the same whatever the display holds: it reads none of it,
and 00E0 alone writes it. -/
theorem exec_withDisp (i : Instr) (s : State) (d : Disp)
    (noDraw : ∀ x y n, i = .drwVxVyN x y n → ¬ (n = 0 ∨ s.addrAtI (n.toNat - 1) ≤ 0xFFF)) :
    ∃ t d', exec i s = .next t ∧ exec i { s with disp := d } = .next { t with disp := d' } := by
  cases i with
  | drwVxVyN x y n =>
    obtain ⟨draws, beyond⟩ := not_or.mp (noDraw x y n rfl)
    exact ⟨_, d, exec_drwVxVyN_of_outOfRange draws (not_le.mp beyond),
      exec_drwVxVyN_of_outOfRange draws (not_le.mp beyond)⟩
  | cls => exact ⟨_, Disp.clear, rfl, rfl⟩
  | callNnn nnn =>
    obtain room | full := lt_or_ge s.stack.length Config.stackDepth
    · exact ⟨_, d, exec_call_of_room room, exec_call_of_room room⟩
    · exact ⟨_, d, exec_call_of_full full, exec_call_of_full full⟩
  | ret =>
    obtain ⟨v, rest, top, -⟩ | ⟨empty, -⟩ := s.pop_spec
    · exact ⟨_, d, exec_ret_of_cons top, exec_ret_of_cons top⟩
    · exact ⟨_, d, exec_ret_of_empty empty, exec_ret_of_empty empty⟩
  | ldBVx x =>
    obtain inRange | beyond := le_or_gt (s.addrAtI 2) 0xFFF
    · exact ⟨_, d, exec_ldBVx_of_inRange inRange, exec_ldBVx_of_inRange inRange⟩
    · exact ⟨_, d, exec_ldBVx_of_outOfRange beyond, exec_ldBVx_of_outOfRange beyond⟩
  | ldMemIVx x =>
    obtain inRange | beyond := le_or_gt (s.addrAtI x.val) 0xFFF
    · exact ⟨_, d, exec_ldMemIVx_of_inRange inRange, exec_ldMemIVx_of_inRange inRange⟩
    · exact ⟨_, d, exec_ldMemIVx_of_outOfRange beyond, exec_ldMemIVx_of_outOfRange beyond⟩
  | ldVxMemI x =>
    obtain inRange | beyond := le_or_gt (s.addrAtI x.val) 0xFFF
    · exact ⟨_, d, exec_ldVxMemI_of_inRange inRange, exec_ldVxMemI_of_inRange inRange⟩
    · exact ⟨_, d, exec_ldVxMemI_of_outOfRange beyond, exec_ldVxMemI_of_outOfRange beyond⟩
  | ldVxK x =>
    simp only [exec, execLdVxK]
    cases s.port.key with
    | none | some => exact ⟨_, d, rfl, rfl⟩
  | _ => exact ⟨_, d, rfl, rfl⟩

/-! ### The statements -/

/-- Settles O33: the rows read at I are those of the statement, and they are at most 15, so no two of
their bits land on one pixel. -/
theorem drawSprite : Obligations.DrawSprite := by
  refine fun x y n s => ⟨isWordOf_of_encode rfl rfl, fun inRange => ?_, fun draws beyond => ?_⟩
  · have fewRows : (s.mem.readBytes (s.addrAtI 0) n.toNat).length ≤ 32 := by
      rw [Memory.length_readBytes]
      omega
    have collides := (writeSprite_spec (s.getV x).toNat (s.getV y).toNat _ s.disp fewRows).2
    simp only [mem_spriteCells_readBytes_iff] at collides
    have flag := (s.getV_draw (s.getV x).toNat (s.getV y).toNat
      (s.mem.readBytes (s.addrAtI 0) n.toNat) VF).trans (if_pos rfl)
    refine ⟨_, exec_drwVxVyN_of_inRange inRange, fun c r => ?toggles, fun hit => ?on, fun miss => ?off,
      rfl, keepsAllButDispVF_next2 s _ _ _⟩
    case toggles =>
      exact (pixel_writeSprite_ne_iff _ _ s.disp fewRows c r).trans
        (mem_spriteCells_readBytes_iff _ _ _ _ _ c r)
    case on => exact flag.trans (congrArg flagByte (collides.mpr hit))
    case off => exact flag.trans (congrArg flagByte (Bool.eq_false_iff.mpr (mt collides.mp miss)))
  · exact completes_of_raiseBy rfl (exec_drwVxVyN_of_outOfRange draws beyond)

/-- Settles O35: the second blit toggles each pixel the first one toggled. -/
theorem blitTwiceRestores : Obligations.BlitTwiceRestores := by
  intro x y rows d atMost15
  have fewRows : rows.length ≤ 32 := by omega
  refine Disp.ext_pixel fun c r => ?_
  rw [(writeSprite_spec x y rows _ fewRows).1, (writeSprite_spec x y rows d fewRows).1,
    Bool.xor_assoc, Bool.xor_self, Bool.xor_false]

/-- Settles O36: the first blit turns on exactly the pixels under a 1, and the second one hits them. -/
theorem repeatedBlitCollides : Obligations.RepeatedBlitCollides := by
  intro x y rows atMost15
  have fewRows : rows.length ≤ 32 := by omega
  obtain ⟨pixels, collides⟩ := writeSprite_spec x y rows Disp.clear fewRows
  constructor
  · refine Bool.eq_false_iff.mpr fun collision => ?_
    obtain ⟨c, r, -, on⟩ := collides.mp collision
    cases (Disp.pixel_clear c r).symm.trans on
  · rw [(writeSprite_spec x y rows _ fewRows).2, ← exists_mem_spriteCells_iff x y 0]
    simp only [pixels, Disp.pixel_clear, Bool.false_xor, decide_eq_true_eq, and_self]

/-- Settles O37: the two blits run over the same cells. -/
theorem congruentOriginsAgree : Obligations.CongruentOriginsAgree := by
  intro x x' y y' rows d sameColumn sameRow
  rw [writeSprite, writeSprite, blitRows_eq_cells, blitRows_eq_cells,
    spriteCells_congr sameColumn sameRow]

/-- Settles O38: a DXYN in range writes to VF what it finds on the display; out of range, it and every
other instruction find nothing there. -/
theorem displayReachesOnlyTheFlag : Obligations.DisplayReachesOnlyTheFlag := by
  intro i s d
  by_cases draws : ∃ x y n, i = .drwVxVyN x y n ∧ (n = 0 ∨ s.addrAtI (n.toNat - 1) ≤ 0xFFF)
  · obtain ⟨x, y, n, rfl, inRange⟩ := draws
    refine ⟨_, _, exec_drwVxVyN_of_inRange inRange, exec_drwVxVyN_of_inRange inRange,
      fun r differs => ⟨?_, x, y, n, rfl⟩, rfl, rfl, rfl, ⟨rfl, rfl⟩, rfl, rfl, rfl, rfl, rfl⟩
    by_contra notVF
    simp only [State.getV_next2, State.getV_draw, if_neg notVF] at differs
    exact differs rfl
  · obtain ⟨t, d', executed, executed'⟩ :=
      exec_withDisp i s d fun x y n e inRange => draws ⟨x, y, n, e, inRange⟩
    exact ⟨t, { t with disp := d' }, executed, executed', fun _ differs => absurd rfl differs,
      rfl, rfl, rfl, ⟨rfl, rfl⟩, rfl, rfl, rfl, rfl, rfl⟩

/-- Settles O34: the handler puts the cleared buffer in place of the display and moves on. -/
theorem clearDisplay : Obligations.ClearDisplay := fun _ =>
  ⟨isWordOf_of_encode rfl rfl, _, rfl, Disp.pixel_clear, rfl, fun _ => rfl, rfl, rfl, ⟨rfl, rfl⟩,
    fun _ => rfl, rfl, rfl, rfl, rfl⟩

end Sys2Proof.Machine

namespace Sys2Proof.Machine

/-! ### FX0A with a key sampled and without (R231) -/

section
variable {x : RegIdx} {s : State}

theorem exec_ldVxK_of_key {k : KeyId} (key : s.port.key = some k) :
    exec (.ldVxK x) s = .next (s.setV x (BitVec.ofNat 8 k.val)).next2 := by
  simp only [exec, execLdVxK, key]

theorem exec_ldVxK_of_noKey (noKey : s.port.key = none) : exec (.ldVxK x) s = .next s := by
  simp only [exec, execLdVxK, noKey]

/-- A key number fits in a register (R22). -/
theorem toNat_ofNat_key (k : KeyId) : (BitVec.ofNat 8 k.val).toNat = k.val :=
  Nat.mod_eq_of_lt (by omega)

/-! ### The condition of EX9E and EXA1 (R232, R233) -/

theorem State.keyIs_iff :
    s.keyIs x = true ↔ ∃ k, s.port.key = some k ∧ k.val = (s.getV x).toNat := by
  unfold State.keyIs
  cases s.port.key with
  | none => simp
  | some k => simp

end

/-! ### The statements -/

/-- Settles O39: the two clauses are the two cases of the sampled key. -/
theorem waitForKey : Obligations.WaitForKey := by
  refine fun x s => ⟨isWordOf_of_encode rfl rfl, fun k key => ?_, exec_ldVxK_of_noKey⟩
  refine completes_of_registers _ (exec_ldVxK_of_key key) fun r => ?_
  exact (s.toNat_getV_setV x r _).trans (by rw [toNat_ofNat_key])

/-- Settles O40: the two premises are the two values of the condition of the skip. -/
theorem skipOnKey : Obligations.SkipOnKey := by
  refine fun x s => ⟨isWordOf_of_encode rfl rfl, isWordOf_of_encode rfl rfl, fun same => ?_,
    fun differs => ?_⟩
  · have keyIs : s.keyIs x = true := State.keyIs_iff.mpr same
    exact ⟨completes_of_skipIf rfl (by simp [keyIs]), completes_of_skipIf rfl (by simp [keyIs])⟩
  · have noMatch : ¬ ∃ k, s.port.key = some k ∧ k.val = (s.getV x).toNat :=
      fun ⟨k, key, same⟩ => differs k key same
    have keyIs : s.keyIs x = false := Bool.eq_false_iff.mpr (mt State.keyIs_iff.mp noMatch)
    exact ⟨completes_of_skipIf rfl (by simp [keyIs]), completes_of_skipIf rfl (by simp [keyIs])⟩

end Sys2Proof.Machine

namespace Sys2Proof.Machine

/-! ### When a handler faults and when it completes (R261 to R265, R292) -/

section
variable {i : Instr} {s t : State}

/-- On a hazard of R292 the handler takes a fault of its own. -/
theorem exec_of_handlerFaults (hazard : HandlerFaults i s) :
    ∃ c, exec i s = .next (s.raiseBy c i) := by
  cases i with
  | sysNnn nnn => exact ⟨_, rfl⟩
  | callNnn nnn => exact ⟨_, exec_call_of_full hazard⟩
  | ret => exact ⟨_, exec_ret_of_empty hazard⟩
  | ldBVx x => exact ⟨_, exec_ldBVx_of_outOfRange hazard⟩
  | ldMemIVx x => exact ⟨_, exec_ldMemIVx_of_outOfRange hazard⟩
  | ldVxMemI x => exact ⟨_, exec_ldVxMemI_of_outOfRange hazard⟩
  | drwVxVyN x y n =>
    obtain ⟨rows, beyond⟩ := hazard
    exact ⟨_, exec_drwVxVyN_of_outOfRange (BitVec.toNat_ne.mpr rows.ne') beyond⟩
  | _ => cases hazard

/-- Off the hazards of R292 the handler completes and leaves the record alone. -/
theorem exec_of_not_handlerFaults (safe : ¬ HandlerFaults i s) :
    ∃ t, exec i s = .next t ∧ t.fault = s.fault := by
  cases i with
  | sysNnn nnn => exact absurd trivial safe
  | callNnn nnn => exact ⟨_, exec_call_of_room (not_le.mp safe), rfl⟩
  | ret =>
    obtain ⟨v, rest, top⟩ := List.exists_cons_of_ne_nil safe
    exact ⟨_, exec_ret_of_cons top, rfl⟩
  | ldBVx x => exact ⟨_, exec_ldBVx_of_inRange (not_lt.mp safe), rfl⟩
  | ldMemIVx x => exact ⟨_, exec_ldMemIVx_of_inRange (not_lt.mp safe), rfl⟩
  | ldVxMemI x => exact ⟨_, exec_ldVxMemI_of_inRange (not_lt.mp safe), rfl⟩
  | drwVxVyN x y n =>
    refine ⟨_, exec_drwVxVyN_of_inRange (or_iff_not_imp_left.mpr fun draws => ?_), rfl⟩
    exact not_lt.mp fun beyond => safe ⟨Nat.pos_of_ne_zero (BitVec.toNat_ne.mp draws), beyond⟩
  | ldVxK x =>
    cases key : s.port.key with
    | none => exact ⟨_, exec_ldVxK_of_noKey key, rfl⟩
    | some k => exact ⟨_, exec_ldVxK_of_key key, rfl⟩
  | _ => exact ⟨_, rfl, rfl⟩

/-! ### What a fetch that faults says of `pc` (R121) -/

theorem State.not_fetchable_of_odd (odd : s.pc.getLsbD 0 = true) : ¬ s.fetchable := by
  rintro ⟨even, -⟩
  cases odd.symm.trans even

theorem State.not_fetchable_of_beyond (beyond : 0xFFE < s.pc.toNat) : ¬ s.fetchable :=
  fun ⟨_, inRange⟩ => absurd beyond (not_lt.mpr inRange)

/-! ### A handler that halts a running machine (R267, R268) -/

/-- Only the fault effect touches the record. -/
theorem Effect.fault_of_halts (effect : Effect s i t) (running : s.running)
    (halts : t.fault.halted = true) : ∃ c, HandlerCause i c ∧ t = s.raiseBy c i := by
  cases effect with
  | fault c raises => exact ⟨c, raises, rfl⟩
  | _ => cases running.symm.trans halts

theorem exec_halts_iff (running : s.running) (executed : exec i s = .next t) :
    t.fault.halted = true ↔ HandlerFaults i s := by
  constructor
  · refine fun halts => by_contra fun safe => ?_
    obtain ⟨u, completes, sameFault⟩ := exec_of_not_handlerFaults safe
    obtain rfl : t = u := Host.Outcome.next.inj (executed.symm.trans completes)
    rw [sameFault, running] at halts
    cases halts
  · intro hazard
    obtain ⟨c, faults⟩ := exec_of_handlerFaults hazard
    obtain rfl : t = s.raiseBy c i := Host.Outcome.next.inj (executed.symm.trans faults)
    rfl

/-- Sampling the inputs touches nothing a hazard of R292 speaks of. -/
theorem handlerFaults_sample : HandlerFaults i s.sample ↔ HandlerFaults i s := Iff.rfl

end

/-! ### The statements -/

/-- Settles O48: the fault effect is the one that halts, and it carries its cause. -/
theorem handlersRaiseOneKindOfFault : Obligations.HandlersRaiseOneKindOfFault := by
  intro i s t running executed halts
  obtain ⟨c, raises, rfl⟩ := (effect_of_exec executed).fault_of_halts running halts
  exact raises

/-- Settles O46: a fault before the handler records its word as `step` says; the word a handler's fault
records is the encoding of its instruction, which is the one fetched. -/
theorem faultsArePrecise : Obligations.FaultsArePrecise := by
  intro s t running stepped halts
  obtain ⟨odd, faults⟩ | ⟨-, beyond, faults⟩ | ⟨fetchable, -, faults⟩ |
    ⟨fetchable, i, decoded, handled⟩ := step_spec s running
  · obtain rfl := Host.Outcome.next.inj (stepped.symm.trans faults)
    exact ⟨.misalignedFetch, by decide, (absurd · (State.not_fetchable_of_odd odd)),
      fun _ => tookFault_raise _ _ _⟩
  · obtain rfl := Host.Outcome.next.inj (stepped.symm.trans faults)
    exact ⟨.addressOutOfRange, by decide, (absurd · (State.not_fetchable_of_beyond beyond)),
      fun _ => tookFault_raise _ _ _⟩
  · obtain rfl := Host.Outcome.next.inj (stepped.symm.trans faults)
    exact ⟨.unsupportedInstruction, by decide, fun _ => tookFault_raise _ _ _,
      (absurd fetchable ·)⟩
  · obtain ⟨c, raises, rfl⟩ :=
      (effect_of_exec (handled.symm.trans stepped)).fault_of_halts running halts
    exact ⟨c, raises.ne_none, fun _ => encode_of_decode decoded ▸ tookFault_raise _ c (encode i),
      (absurd fetchable ·)⟩

/-- Settles O47: each case of the step before the handler is a hazard and faults; the handler faults
exactly on its own. -/
theorem faultsExactlyOnTheHazards : Obligations.FaultsExactlyOnTheHazards := by
  intro s t running stepped
  obtain ⟨odd, faults⟩ | ⟨-, beyond, faults⟩ | ⟨-, unmatched, faults⟩ |
    ⟨fetchable, i, decoded, handled⟩ := step_spec s running
  · obtain rfl := Host.Outcome.next.inj (stepped.symm.trans faults)
    exact iff_of_true rfl (.inl (State.not_fetchable_of_odd odd))
  · obtain rfl := Host.Outcome.next.inj (stepped.symm.trans faults)
    exact iff_of_true rfl (.inl (State.not_fetchable_of_beyond beyond))
  · obtain rfl := Host.Outcome.next.inj (stepped.symm.trans faults)
    exact iff_of_true rfl (.inr (.inl unmatched))
  · have halts_iff : t.fault.halted = true ↔ HandlerFaults i s :=
      (exec_halts_iff (s := s.sample) running (handled.symm.trans stepped)).trans handlerFaults_sample
    simp only [halts_iff, fetchable, decoded, not_true_eq_false, reduceCtorEq, Option.some.injEq,
      false_or, exists_eq_left']

end Sys2Proof.Machine
